-- ==== Sys2Proof/Word.lean ====
section
/-! DEFINITION. The word types of B64CORE: a byte, a 6-bit index, and the fixed-width port words (00_scope.md R7, 30_encoding.md R59). -/

namespace Sys2Proof

/-- A data byte or an 8-bit character code (R7: BYTE_W, OUT_CHAR_W). -/
abbrev Byte := BitVec 8

/-- A 6-bit index or value (R7: INDEX_W). -/
abbrev Sextet := BitVec 6

/-- The 24 bits of one group (R39, R75). -/
abbrev GroupWord := BitVec 24

/-- An ENC input beat, 10 bits (R48). -/
abbrev EncInWord := BitVec 10

/-- An ENC output beat, 33 bits (R55). -/
abbrev EncOutWord := BitVec 33

/-- A DEC output beat, 28 bits (R56). -/
abbrev DecOutWord := BitVec 28

end Sys2Proof
end

