-- ==== Sys2Proof/Config.lean ====
section
/-! DEFINITION. What is fixed when the block is built: the parameters CHAR_W and OUTQ_DEPTH (00_scope.md R8), and the host's open parameter CHAR_UNIT (70_reset_and_hazards.md R133). The spec leaves no output value open, so there is no free value here. -/

namespace Sys2Proof

/-- The parameters of the block (R8). `Params.WF` of WellFormed.lean says which values are legal. -/
structure Params where
  /-- CHAR_W, the width in bits of the DEC input character code, an integer >= 8. -/
  charW : Nat
  /-- OUTQ_DEPTH, the capacity of each output queue in beats, an integer >= 2. -/
  outqDepth : Nat
deriving DecidableEq, Repr

/-- The defaults of R8: CHAR_W = 21, OUTQ_DEPTH = 2. -/
def Params.standard : Params := { charW := 21, outqDepth := 2 }

/-- CHAR_UNIT, the host's parameter of R133 and D25: what one character of a text is when the host
splits it into beats. The block itself needs no value of it. -/
inductive CharUnit where
  | codePoint
  | utf16Unit
deriving DecidableEq, Repr

end Sys2Proof
end

