-- ==== Sys2Proof/Syntax.lean ====
section
/-! DEFINITION. The instructions of B64CORE: the eight input beat kinds (30_encoding.md R52), one constructor per row of the opcode table, and the input port words that carry them. -/

namespace Sys2Proof

/-- The input beats. A beat with NULL = 1 carries no operand: its data field is ignored (R53). -/
inductive Instr where
  /-- ENC_BYTE (R64): add one byte to the current ENC message. -/
  | encByte (b : Byte)
  /-- ENC_BYTE_LAST (R65): add one byte and end the message. -/
  | encByteLast (b : Byte)
  /-- ENC_END (R66): end the current ENC message. -/
  | encEnd
  /-- ENC_NOP (R67): no operation. -/
  | encNop
  /-- DEC_CHAR (R77): add one character to the current DEC message. CHAR is a code below 2^CHAR_W
  (R51); it is a Nat because its width is a parameter. -/
  | decChar (c : Nat)
  /-- DEC_CHAR_LAST (R78): add one character and end the message. -/
  | decCharLast (c : Nat)
  /-- DEC_END (R79): end the current DEC message and report its status. -/
  | decEnd
  /-- DEC_NOP (R80): no operation. -/
  | decNop
deriving DecidableEq, Repr

/-- A word on one of the two input ports: a 10-bit word on ENC's (R48), a word of CHAR_W + 2 bits on
DEC's (R50), a Nat because that width is a parameter. -/
inductive PortWord where
  | enc (ew : EncInWord)
  | dec (dw : Nat)
deriving DecidableEq, Repr

/-- The unit whose port takes the beat (R52). -/
def Instr.isEnc : Instr → Bool
  | .encByte _ => true
  | .encByteLast _ => true
  | .encEnd => true
  | .encNop => true
  | .decChar _ => false
  | .decCharLast _ => false
  | .decEnd => false
  | .decNop => false

/-- The word is on the ENC port. -/
def PortWord.isEnc : PortWord → Bool
  | .enc _ => true
  | .dec _ => false

end Sys2Proof
end

