-- ==== Sys2Proof/WellFormed.lean ====
section
/-! DEFINITION. What a legal parameter set, beat and port word is (00_scope.md R8, 30_encoding.md R48 to R51, R59). -/

namespace Sys2Proof

/-- The legal parameter values of R8. -/
abbrev Params.WF (p : Params) : Prop := 8 ≤ p.charW ∧ 2 ≤ p.outqDepth

/-- A beat fits its format: a character code has at most CHAR_W bits (R51). A byte always fits (R49). -/
def Instr.wf (p : Params) : Instr → Bool
  | .encByte _ => true
  | .encByteLast _ => true
  | .encEnd => true
  | .encNop => true
  | .decChar c => decide (c < 2 ^ p.charW)
  | .decCharLast c => decide (c < 2 ^ p.charW)
  | .decEnd => true
  | .decNop => true

/-- A word fits its port: a DEC word has at most CHAR_W + 2 bits (R50, R59). -/
def PortWord.wf (p : Params) : PortWord → Bool
  | .enc _ => true
  | .dec dw => decide (dw < 2 ^ (p.charW + 2))

end Sys2Proof
end

