-- ==== Sys2Proof/Decode.lean ====
section
/-! DEFINITION. The beat decoder and encoder (30_encoding.md R48 to R54), the opcode map as match and mask (R52), and the host's reading of the opcode table. -/

namespace Sys2Proof

/-- The field `v[lo + width - 1 : lo]` of a natural number (R10). -/
def natField (v lo width : Nat) : Nat := v / 2 ^ lo % 2 ^ width

/-- Why a word is rejected. No word of a port's own width is (R54). -/
inductive DecodeError where
  /-- The word has more bits than the DEC port (R50, R59). -/
  | decWordTooWide
deriving DecidableEq, Repr

/-- The ENC kind selected by (LAST, NULL), with BYTE (R52, R53). -/
def encBeat (last null : Bool) (byte : Byte) : Instr :=
  match last, null with
  | false, false => .encByte byte
  | true, false => .encByteLast byte
  | true, true => .encEnd
  | false, true => .encNop

/-- The DEC kind selected by (LAST, NULL), with CHAR (R52, R53). -/
def decBeat (last null : Bool) (char : Nat) : Instr :=
  match last, null with
  | false, false => .decChar char
  | true, false => .decCharLast char
  | true, true => .decEnd
  | false, true => .decNop

/-- Decode an ENC word: LAST = ew[9], NULL = ew[8], BYTE = ew[7:0] (R48, R49). -/
def decodeEnc (ew : EncInWord) : Instr :=
  encBeat (ew.getLsbD 9) (ew.getLsbD 8) (ew.extractLsb' 0 8)

/-- Decode a DEC word: LAST = dw[CHAR_W+1], NULL = dw[CHAR_W], CHAR = dw[CHAR_W-1:0] (R50, R51). -/
def decodeDec (p : Params) (dw : Nat) : Except DecodeError Instr :=
  if dw < 2 ^ (p.charW + 2) then
    .ok (decBeat (natField dw (p.charW + 1) 1 == 1) (natField dw p.charW 1 == 1)
      (natField dw 0 p.charW))
  else .error .decWordTooWide

/-- The beat decoder of both ports (R52, R54). -/
def decode (p : Params) : PortWord → Except DecodeError Instr
  | .enc ew => .ok (decodeEnc ew)
  | .dec dw => decodeDec p dw

/-- The ENC word `{LAST, NULL, BYTE}` (R48). -/
def encWord (last null : Bool) (byte : Byte) : EncInWord :=
  BitVec.ofBool last ++ BitVec.ofBool null ++ byte

/-- The DEC word `{LAST, NULL, CHAR}` (R50). -/
def decWord (p : Params) (last null : Bool) (char : Nat) : Nat :=
  last.toNat * 2 ^ (p.charW + 1) + null.toNat * 2 ^ p.charW + char

/-- The word of a beat (R52); an ignored field is driven as 0 (R53, R60). -/
def encode (p : Params) : Instr → PortWord
  | .encByte b => .enc (encWord false false b)
  | .encByteLast b => .enc (encWord true false b)
  | .encEnd => .enc (encWord true true 0#8)
  | .encNop => .enc (encWord false true 0#8)
  | .decChar c => .dec (decWord p false false c)
  | .decCharLast c => .dec (decWord p true false c)
  | .decEnd => .dec (decWord p true true 0)
  | .decNop => .dec (decWord p false true 0)

/-- The value of a port word as a number, bit 0 the least significant (R10). -/
def PortWord.value : PortWord → Nat
  | .enc ew => ew.toNat
  | .dec dw => dw

/-- The number of bits of the port a beat goes to (R59). -/
def portWidth (p : Params) (i : Instr) : Nat :=
  if i.isEnc then 10 else p.charW + 2

/-- The match and mask values of R52's second table. -/
def opMatch (p : Params) : Instr → Nat × Nat
  | .encByte _ => (0x000, 0x300)
  | .encByteLast _ => (0x200, 0x300)
  | .encEnd => (0x300, 0x300)
  | .encNop => (0x100, 0x300)
  | .decChar _ => (0, 3 <<< p.charW)
  | .decCharLast _ => (2 <<< p.charW, 3 <<< p.charW)
  | .decEnd => (3 <<< p.charW, 3 <<< p.charW)
  | .decNop => (1 <<< p.charW, 3 <<< p.charW)

/-- The instruction of a word that the opcode table numbers. The table's ENC rows have 10 bits (two
bytes), its DEC rows 23 bits (three bytes, at the default CHAR_W = 21), so the number of bits says
which port the word belongs to; the two ports are separate and their words overlap as numbers. -/
def decodeTableWord (nbits w : Nat) : Option Instr :=
  if nbits ≤ 16 then
    if w < 2 ^ 10 then some (decodeEnc (BitVec.ofNat 10 w)) else none
  else
    match decodeDec Params.standard w with
    | .ok i => some i
    | .error _ => none

end Sys2Proof
end

