-- ==== Sys2Proof/Machine/Rom.lean ====
section
/-! DEFINITION. The two look-up ROMs (20_memory.md R31 to R36). They are constants, not state (10_state.md R14). -/

namespace Sys2Proof.Machine

/-- A character class (00_scope.md R12). -/
inductive CharClass where
  /-- An alphabet character, with its 6-bit value. -/
  | val (v : Sextet)
  /-- The padding character. -/
  | pad
  /-- Any other character. -/
  | invalid
deriving DecidableEq, Repr

/-- `PAD_CODE`, the code of `=` (R33). -/
def padCode : Byte := 0x3D#8

/-- The contents of ALPHA, index 0 first: R31's table, sixteen entries a line. -/
def alphaRom : List Byte :=
  [0x41, 0x42, 0x43, 0x44, 0x45, 0x46, 0x47, 0x48, 0x49, 0x4A, 0x4B, 0x4C, 0x4D, 0x4E, 0x4F, 0x50] ++
  [0x51, 0x52, 0x53, 0x54, 0x55, 0x56, 0x57, 0x58, 0x59, 0x5A, 0x61, 0x62, 0x63, 0x64, 0x65, 0x66] ++
  [0x67, 0x68, 0x69, 0x6A, 0x6B, 0x6C, 0x6D, 0x6E, 0x6F, 0x70, 0x71, 0x72, 0x73, 0x74, 0x75, 0x76] ++
  [0x77, 0x78, 0x79, 0x7A, 0x30, 0x31, 0x32, 0x33, 0x34, 0x35, 0x36, 0x37, 0x38, 0x39, 0x2B, 0x2F]

/-- `ALPHA[i]` (R31, R32). The ROM has all 64 entries, so the default is never read. -/
def alpha (i : Sextet) : Byte := alphaRom.getD i.toNat 0

/-- `REV(c)` (R34), in the closed form of its table: the class of a character code. It is total on
codes of any width (R90). -/
def rev (c : Nat) : CharClass :=
  if c = 0x2B then .val 62
  else if c = 0x2F then .val 63
  else if 0x30 ≤ c ∧ c ≤ 0x39 then .val (BitVec.ofNat 6 (c - 0x30 + 52))
  else if c = 0x3D then .pad
  else if 0x41 ≤ c ∧ c ≤ 0x5A then .val (BitVec.ofNat 6 (c - 0x41))
  else if 0x61 ≤ c ∧ c ≤ 0x7A then .val (BitVec.ofNat 6 (c - 0x61 + 26))
  else .invalid

/-- The contents of REV_ROM (R35), address 0 first, sixteen entries a line: 0x00 to 0x3F for a value,
0x40 for padding, 0x80 for invalid. -/
def revRom : List Byte :=
  [0x80, 0x80, 0x80, 0x80, 0x80, 0x80, 0x80, 0x80, 0x80, 0x80, 0x80, 0x80, 0x80, 0x80, 0x80, 0x80] ++
  [0x80, 0x80, 0x80, 0x80, 0x80, 0x80, 0x80, 0x80, 0x80, 0x80, 0x80, 0x80, 0x80, 0x80, 0x80, 0x80] ++
  [0x80, 0x80, 0x80, 0x80, 0x80, 0x80, 0x80, 0x80, 0x80, 0x80, 0x80, 0x3E, 0x80, 0x80, 0x80, 0x3F] ++
  [0x34, 0x35, 0x36, 0x37, 0x38, 0x39, 0x3A, 0x3B, 0x3C, 0x3D, 0x80, 0x80, 0x80, 0x40, 0x80, 0x80] ++
  [0x80, 0x00, 0x01, 0x02, 0x03, 0x04, 0x05, 0x06, 0x07, 0x08, 0x09, 0x0A, 0x0B, 0x0C, 0x0D, 0x0E] ++
  [0x0F, 0x10, 0x11, 0x12, 0x13, 0x14, 0x15, 0x16, 0x17, 0x18, 0x19, 0x80, 0x80, 0x80, 0x80, 0x80] ++
  [0x80, 0x1A, 0x1B, 0x1C, 0x1D, 0x1E, 0x1F, 0x20, 0x21, 0x22, 0x23, 0x24, 0x25, 0x26, 0x27, 0x28] ++
  [0x29, 0x2A, 0x2B, 0x2C, 0x2D, 0x2E, 0x2F, 0x30, 0x31, 0x32, 0x33, 0x80, 0x80, 0x80, 0x80, 0x80]

/-- The class an 8-bit REV_ROM entry stands for (R35). No other entry value occurs. -/
def decodeRevEntry (e : Byte) : CharClass :=
  if e.toNat ≤ 0x3F then .val (BitVec.ofNat 6 e.toNat)
  else if e = 0x40 then .pad
  else .invalid

/-- `REV(c)` as the hardware reads it (R35): a range check, then the ROM at `c[6:0]`. -/
def revByRom (c : Nat) : CharClass :=
  if 0x80 ≤ c then .invalid
  else decodeRevEntry (revRom.getD (natField c 0 7) 0x80)

end Sys2Proof.Machine
end

