-- ==== Sys2Proof/Machine/Operands.lean ====
section
/-! DEFINITION. The data path: lanes and fields of group words and output words (20_memory.md R39, R41, 30_encoding.md R55 to R57), the group packer (40_encoder.md R63) and the group unpacker (41_decoder.md R75). -/

namespace Sys2Proof.Machine

/-- `{b0, b1, b2}` (R39). -/
def groupWord (b0 b1 b2 : Byte) : GroupWord := b0 ++ b1 ++ b2

/-- `{v0, v1, v2, v3}` (R39, R75). -/
def sextetWord (v0 v1 v2 v3 : Sextet) : GroupWord := v0 ++ v1 ++ v2 ++ v3

/-- Index k of a group word: w[23:18], w[17:12], w[11:6], w[5:0] for k = 0, 1, 2, 3 (R39). -/
def sextetOf (w : GroupWord) (k : Nat) : Sextet := w.extractLsb' (18 - 6 * k) 6

/-- Byte k of a group word: w[23:16], w[15:8], w[7:0] for k = 0, 1, 2 (R39). -/
def byteOf (w : GroupWord) (k : Nat) : Byte := w.extractLsb' (16 - 8 * k) 8

/-- The group packer `pack(w, npad)` (R63), for npad = 0, 1 or 2. -/
def pack (w : GroupWord) (npad : Nat) : BitVec 32 :=
  let c0 := alpha (sextetOf w 0)
  let c1 := alpha (sextetOf w 1)
  let c2 := if npad = 2 then padCode else alpha (sextetOf w 2)
  let c3 := if 1 ≤ npad then padCode else alpha (sextetOf w 3)
  c0 ++ c1 ++ c2 ++ c3

/-- The group unpacker `unpack(v0, v1, v2, v3)` (R75). -/
def unpack (v0 v1 v2 v3 : Sextet) : Byte × Byte × Byte :=
  let w := sextetWord v0 v1 v2 v3
  (byteOf w 0, byteOf w 1, byteOf w 2)

/-- An ENC DATA beat, KIND = 0 (R55). -/
def encDataWord (chars : BitVec 32) : EncOutWord := 0#1 ++ chars

/-- The ENC END beat, KIND = 1 and no characters (R55). -/
def encEndWord : EncOutWord := 1#1 ++ 0#32

/-- A DEC beat `{KIND, N, B0, B1, B2}` (R56). -/
def decOutWord (kind n : BitVec 2) (b0 b1 b2 : Byte) : DecOutWord := kind ++ n ++ b0 ++ b1 ++ b2

/-- A DEC DATA beat of n bytes, KIND = 0b00 (R56). -/
def decDataWord (n : BitVec 2) (b0 b1 b2 : Byte) : DecOutWord := decOutWord 0b00#2 n b0 b1 b2

/-- A DEC END beat with a status code (R56, R57). -/
def decEndWord (status : BitVec 2) : DecOutWord := decOutWord status 0#2 0#8 0#8 0#8

/-- The KIND bit of an ENC output word: an END beat has 1 (R55). -/
def encIsEnd (w : EncOutWord) : Bool := w.getLsbD 32

/-- The four character lanes of a 32-bit character field, character 0 first (R41, R55). -/
def charLanes (f : BitVec 32) : List Byte :=
  [f.extractLsb' 24 8, f.extractLsb' 16 8, f.extractLsb' 8 8, f.extractLsb' 0 8]

/-- The four character lanes C0 to C3 of an ENC output word (R55). -/
def encLanes (w : EncOutWord) : List Byte := charLanes (w.extractLsb' 0 32)

/-- The KIND field of a DEC output word (R56, R57). -/
def decKind (w : DecOutWord) : BitVec 2 := w.extractLsb' 26 2

/-- The N field of a DEC output word (R56). -/
def decCount (w : DecOutWord) : BitVec 2 := w.extractLsb' 24 2

/-- The three byte lanes B0 to B2 of a DEC output word (R41, R56). -/
def decLanes (w : DecOutWord) : List Byte :=
  [w.extractLsb' 16 8, w.extractLsb' 8 8, w.extractLsb' 0 8]

/-- The N bytes a DEC output word carries, byte 0 first (R56). -/
def decBytes (w : DecOutWord) : List Byte := (decLanes w).take (decCount w).toNat

end Sys2Proof.Machine
end

