-- ==== Sys2Proof/Machine/State.lean ====
section
/-! DEFINITION. The state of B64CORE (10_state.md R15 to R18, R26), the host's actions (42_handshake.md R98), the reasons a step can stop, and the state after reset (R27, R28). -/

namespace Sys2Proof.Machine

/-- The ENC unit's registers (R15) and output queue (R16). -/
structure Enc where
  /-- `e_cnt`: the number of bytes of the current group held; legal values 0, 1, 2. -/
  eCnt : BitVec 2
  /-- `e_b0`: the first byte of the current group. -/
  eB0 : Byte
  /-- `e_b1`: the second byte of the current group. -/
  eB1 : Byte
  /-- `e_active`: a byte of the current message has been accepted. -/
  eActive : Bool
  /-- `e_q`: the output beats not yet popped, oldest first. -/
  eQ : List EncOutWord
deriving DecidableEq, Repr

/-- The DEC unit's registers (R17) and output queue (R18). -/
structure Dec where
  /-- `d_pos`: the number of characters of the current group received. -/
  dPos : BitVec 2
  /-- `d_v0`: the value of group character 0. -/
  dV0 : Sextet
  /-- `d_v1`: the value of group character 1. -/
  dV1 : Sextet
  /-- `d_v2`: the value of group character 2; 0 when that character was PAD. -/
  dV2 : Sextet
  /-- `d_pad2`: group character 2 was the padding character. -/
  dPad2 : Bool
  /-- `d_err`: the sticky character error of the current message (R22). -/
  dErr : Bool
  /-- `d_hold_valid`: a padded group has completed and its bytes are held. -/
  dHoldValid : Bool
  /-- `d_hold_n`: the number of held bytes; legal values 0, 1, 2. -/
  dHoldN : BitVec 2
  /-- `d_hold_bytes`: the held bytes, the first in [15:8]. -/
  dHoldBytes : BitVec 16
  /-- `d_active`: a character of the current message has been accepted. -/
  dActive : Bool
  /-- `d_q`: the output beats not yet popped, oldest first. -/
  dQ : List DecOutWord
deriving DecidableEq, Repr

/-- The steps of R98, each an action of the host. A DEC word is a Nat because its width, CHAR_W + 2,
is a parameter. -/
inductive HostAction where
  /-- PUSH_E(ew): offer an ENC beat (R94). -/
  | pushE (ew : EncInWord)
  /-- PUSH_D(dw): offer a DEC beat (R94). -/
  | pushD (dw : Nat)
  /-- POP_E: take the head of `e_q` (R96). -/
  | popE
  /-- POP_D: take the head of `d_q` (R96). -/
  | popD
  /-- RESET (R120). -/
  | reset
deriving DecidableEq, Repr

/-- The MODEL's own record of the host agent (R13): what it will do and what it has received. It is no
state of B64CORE (R26). DESIGN CHOICE, unsafe or safe as notes/assumptions/2.md and 3.md say. -/
structure HostSide where
  /-- The host's actions that have not happened yet, the next one first (log 2). -/
  actions : List HostAction
  /-- The beats POP_E has returned, oldest first (log 3). -/
  encGot : List EncOutWord
  /-- The beats POP_D has returned, oldest first (log 3). -/
  decGot : List DecOutWord
deriving DecidableEq, Repr

/-- The whole state: the two units (R26), and two fields of the model's own, the parameters the block
was built with (log 1) and the host's side (logs 2 and 3). -/
structure State where
  /-- The ENC unit. -/
  enc : Enc
  /-- The DEC unit. -/
  dec : Dec
  /-- CHAR_W and OUTQ_DEPTH (R8, R14). No step writes them. -/
  cfg : Params
  /-- The host's side. -/
  env : HostSide
deriving DecidableEq, Repr

/-- Why the machine stops with a fault. B64CORE takes no traps (R110), so the only one is a state that
no run from reset reaches. -/
inductive Fault where
  /-- An ENC beat that reads `e_cnt` found it to be 3, which R15 calls unreachable and for which R64
  and R66 have no case (R122, K10). Raised by ENC_BYTE, ENC_BYTE_LAST and ENC_END. Safe: the hardware
  is never there after a reset, and the model claims nothing about it (log 7). -/
  | encCntIllegal
deriving DecidableEq, Repr

/-- Why a step is refused. -/
inductive Refusal where
  /-- The instruction has no meaning yet. Raised by exec only; safe. -/
  | notModelled (mnemonic : String)
  /-- PUSH_E while `enc_in_ready` = 0: R95 and R98 have no such step, K14 says refuse. Raised by every
  ENC beat. Safe: the beat is not accepted and nothing is claimed about what follows (log 5). -/
  | encNotReady
  /-- PUSH_D while `dec_in_ready` = 0: as `encNotReady`, for every DEC beat. Safe (log 5). -/
  | decNotReady
  /-- POP_E while `enc_out_valid` = 0: R96 and R98 enable no such step. Safe (log 6). -/
  | encOutEmpty
  /-- POP_D while `dec_out_valid` = 0: R96 and R98 enable no such step. Safe (log 6). -/
  | decOutEmpty
  /-- PUSH_D of a word with more than CHAR_W + 2 bits: the port has no such word (R50, R59). Safe
  (log 9). -/
  | decWordTooWide
deriving DecidableEq, Repr

/-- The reset values of the ENC unit (R15, R16, R28). -/
def Enc.reset : Enc :=
  { eCnt := 0, eB0 := 0, eB1 := 0, eActive := false, eQ := [] }

/-- The reset values of the DEC unit (R17, R18, R28). -/
def Dec.reset : Dec :=
  { dPos := 0, dV0 := 0, dV1 := 0, dV2 := 0, dPad2 := false, dErr := false, dHoldValid := false,
    dHoldN := 0, dHoldBytes := 0, dActive := false, dQ := [] }

/-- The initial state (R27, R28): both units at their reset values. The parameters are R8's defaults
(log 1), and the host has nothing pending and has received nothing (logs 2 and 3): DESIGN CHOICE. -/
def State.reset : State :=
  { enc := Enc.reset, dec := Dec.reset, cfg := Params.standard,
    env := { actions := [], encGot := [], decGot := [] } }

/-- The state with another ENC unit. -/
def State.withEnc (s : State) (u : Enc) : State := { s with enc := u }

/-- The state with another DEC unit. -/
def State.withDec (s : State) (d : Dec) : State := { s with dec := d }

/-- The state with another host side. -/
def State.withEnv (s : State) (e : HostSide) : State := { s with env := e }

/-- The state with another list of pending host actions. -/
def State.withActions (s : State) (l : List HostAction) : State :=
  s.withEnv { s.env with actions := l }

end Sys2Proof.Machine
end

