-- ==== Sys2Proof/Machine/Flags.lean ====
section
/-! DEFINITION. The status outputs (10_state.md R19), the message statuses and their codes (30_encoding.md R57, 60_exceptions.md R105), and the tests DEC makes at END (41_decoder.md R79). -/

namespace Sys2Proof.Machine

/-- The status of a DEC message (R105). -/
inductive DecStatus where
  | ok
  | lengthError
  | characterError
deriving DecidableEq, Repr

/-- The KIND code that reports a status (R57). -/
def DecStatus.code : DecStatus → BitVec 2
  | .ok => 0b01#2
  | .lengthError => 0b10#2
  | .characterError => 0b11#2

/-- The status a KIND code reports; 0b00 is a DATA beat and reports none (R57). -/
def DecStatus.ofCode (k : BitVec 2) : Option DecStatus :=
  if k = 0b01#2 then some .ok
  else if k = 0b10#2 then some .lengthError
  else if k = 0b11#2 then some .characterError
  else none

/-- The message text the host adapter gives for an error status (R105). -/
def DecStatus.text : DecStatus → Option String
  | .ok => none
  | .lengthError => some "Length of Base64 encoded input string is not a multiple of 4."
  | .characterError => some "Illegal character in Base64 encoded data."

/-- The status DEC_END reports: the length is checked first, then the sticky error (R79, R108). -/
def Dec.endStatus (d : Dec) : DecStatus :=
  if d.dPos ≠ 0#2 then .lengthError
  else if d.dErr then .characterError
  else .ok

/-- A queue of the given length has room for the two beats one input beat can push (R93). -/
def hasRoom (p : Params) (len : Nat) : Bool := decide (2 ≤ p.outqDepth - len)

/-- `enc_in_ready` (R19, R93). -/
def State.encInReady (s : State) : Bool := hasRoom s.cfg s.enc.eQ.length

/-- `dec_in_ready` (R19, R93). -/
def State.decInReady (s : State) : Bool := hasRoom s.cfg s.dec.dQ.length

/-- `enc_out_valid` (R19). -/
def State.encOutValid (s : State) : Bool := decide (0 < s.enc.eQ.length)

/-- `dec_out_valid` (R19). -/
def State.decOutValid (s : State) : Bool := decide (0 < s.dec.dQ.length)

/-- `enc_out_data`: the head of `e_q`, or 0 when the queue is empty (R19). -/
def State.encOutData (s : State) : EncOutWord := s.enc.eQ.headD 0

/-- `dec_out_data`: the head of `d_q`, or 0 when the queue is empty (R19). -/
def State.decOutData (s : State) : DecOutWord := s.dec.dQ.headD 0

/-- `enc_busy` (R19). -/
def State.encBusy (s : State) : Bool := s.enc.eActive

/-- `dec_busy` (R19). -/
def State.decBusy (s : State) : Bool := s.dec.dActive

end Sys2Proof.Machine
end

