-- ==== Sys2Proof/Machine/Ops.lean ====
section
/-! DEFINITION. The shared operations: pushing to and popping from the queues (00_scope.md R11, 42_handshake.md R96), clearing a unit at a message's end, accepting a beat (R93, R94), and reset (70_reset_and_hazards.md R120). B64CORE takes no traps (60_exceptions.md R110): recording a character error, dropping the held group, and the END that reports and clears the error stand where taking an exception and returning from it would. -/

namespace Sys2Proof.Machine

/-- `push_e(beat)` (R11). -/
def Enc.push (u : Enc) (w : EncOutWord) : Enc := { u with eQ := u.eQ ++ [w] }

/-- Every ENC register at its reset value; the queue is kept (R66, R73). -/
def Enc.clear (u : Enc) : Enc := { Enc.reset with eQ := u.eQ }

/-- `push_d(beat)` (R11). -/
def Dec.push (d : Dec) (w : DecOutWord) : Dec := { d with dQ := d.dQ ++ [w] }

/-- Every DEC register at its reset value; the queue is kept (R79, R89). -/
def Dec.clear (d : Dec) : Dec := { Dec.reset with dQ := d.dQ }

/-- Record a character error: `d_err <- 1` (R22, R77). -/
def Dec.setErr (d : Dec) : Dec := { d with dErr := true }

/-- Drop the held group (R77, R110). -/
def Dec.dropHold (d : Dec) : Dec := { d with dHoldValid := false, dHoldN := 0, dHoldBytes := 0 }

/-- Hold the n bytes of a padded group (R77). -/
def Dec.hold (d : Dec) (n : BitVec 2) (b0 b1 : Byte) : Dec :=
  { d with dHoldValid := true, dHoldN := n, dHoldBytes := b0 ++ b1 }

/-- Clear the group registers (R77, at the end of a group). -/
def Dec.clearGroup (d : Dec) : Dec := { d with dV0 := 0, dV1 := 0, dV2 := 0, dPad2 := false }

/-- ENC accepts a beat and applies its rule in one step, when it is ready (R93, R94); while it is not,
there is no such step (R95, K14). -/
def acceptEnc (s : State) (rule : Enc → Except Fault Enc) : Host.Outcome State Fault Refusal :=
  if s.encInReady then
    match rule s.enc with
    | .ok u => .next (s.withEnc u)
    | .error f => .fault f
  else .refused .encNotReady

/-- DEC accepts a beat and applies its rule in one step, when it is ready (R93, R94); while it is not,
there is no such step (R95, K14). -/
def acceptDec (s : State) (rule : Dec → Dec) : Host.Outcome State Fault Refusal :=
  if s.decInReady then .next (s.withDec (rule s.dec))
  else .refused .decNotReady

/-- POP_E (R96): remove the head of `e_q` and return it to the host. -/
def popEnc (s : State) : Host.Outcome State Fault Refusal :=
  match s.enc.eQ with
  | [] => .refused .encOutEmpty
  | w :: q =>
    .next ((s.withEnc { s.enc with eQ := q }).withEnv { s.env with encGot := s.env.encGot ++ [w] })

/-- POP_D (R96): remove the head of `d_q` and return it to the host. -/
def popDec (s : State) : Host.Outcome State Fault Refusal :=
  match s.dec.dQ with
  | [] => .refused .decOutEmpty
  | w :: q =>
    .next ((s.withDec { s.dec with dQ := q }).withEnv { s.env with decGot := s.env.decGot ++ [w] })

/-- RESET (R120): every register at its reset value and both queues empty. The ROMs, the parameters
and the host's side are not the block's state and stay (log 13). -/
def resetBlock (s : State) : State := (s.withEnc Enc.reset).withDec Dec.reset

end Sys2Proof.Machine
end

