-- ==== Sys2Proof/Machine/DecUnit.lean ====
section
/-! DEFINITION. The DEC unit's beats and its validation FSM (41_decoder.md R76 to R80, R92). -/

namespace Sys2Proof.Machine

/-- R77 at position 0. -/
def decAt0 (k : CharClass) (d : Dec) : Dec :=
  match k with
  | .val v => { d with dV0 := v }
  | .pad => d.setErr
  | .invalid => d.setErr

/-- R77 at position 1. -/
def decAt1 (k : CharClass) (d : Dec) : Dec :=
  match k with
  | .val v => { d with dV1 := v }
  | .pad => d.setErr
  | .invalid => d.setErr

/-- R77 at position 2: a PAD is kept pending. -/
def decAt2 (k : CharClass) (d : Dec) : Dec :=
  match k with
  | .val v => { d with dV2 := v }
  | .pad => { d with dPad2 := true }
  | .invalid => d.setErr

/-- R77 at position 3: a full group is pushed, a padded group is held, and anything else is a
character error. -/
def decAt3 (k : CharClass) (d : Dec) : Dec :=
  match k with
  | .val v =>
    if d.dPad2 then d.setErr
    else
      let (b0, b1, b2) := unpack d.dV0 d.dV1 d.dV2 v
      d.push (decDataWord 3 b0 b1 b2)
  | .pad =>
    let (b0, b1, _) := unpack d.dV0 d.dV1 d.dV2 0
    if d.dPad2 then d.hold 1 b0 0 else d.hold 2 b0 b1
  | .invalid => d.setErr

/-- The `case d_pos of` of R77. -/
def decPlace (k : CharClass) (d : Dec) : Dec :=
  if d.dPos = 0#2 then decAt0 k d
  else if d.dPos = 1#2 then decAt1 k d
  else if d.dPos = 2#2 then decAt2 k d
  else decAt3 k d

/-- The validating part of R77: nothing while `d_err` = 1; an error, and the held group dropped, when a
character follows a padded group; the `case` otherwise. -/
def decValidate (k : CharClass) (d : Dec) : Dec :=
  if d.dErr then d
  else if d.dHoldValid then d.setErr.dropHold
  else decPlace k d

/-- The counting part of R77: the group registers are cleared after position 3, `d_pos` advances
modulo 4, and the message is active. It reads `d_pos` as it was before the beat, which the validating
part does not write. -/
def decAdvance (d : Dec) : Dec :=
  let g := if d.dPos = 3#2 then d.clearGroup else d
  { g with dPos := d.dPos + 1, dActive := true }

/-- R77's register transfer, with the class `REV(CHAR)` (R76). -/
def decCharRule (c : Nat) (d : Dec) : Dec := decAdvance (decValidate (rev c) d)

/-- The first part of R79: push the held group when the status is OK. -/
def decFlush (d : Dec) : Dec :=
  if d.endStatus = .ok ∧ d.dHoldValid = true then
    d.push (decDataWord d.dHoldN (d.dHoldBytes.extractLsb' 8 8) (d.dHoldBytes.extractLsb' 0 8) 0)
  else d

/-- R79's register transfer: the held group, then the END beat with the status, then every register
to 0. -/
def decEndRule (d : Dec) : Dec := ((decFlush d).push (decEndWord d.endStatus.code)).clear

/-- R78's register transfer: R77's, then R79's on the registers it left. -/
def decCharLastRule (c : Nat) (d : Dec) : Dec := decEndRule (decCharRule c d)

/-- R80's register transfer: skip. -/
def decNopRule (d : Dec) : Dec := d

/-- DEC_CHAR (R77). -/
def execDecChar (c : Nat) (s : State) : Host.Outcome State Fault Refusal :=
  acceptDec s (decCharRule c)

/-- DEC_CHAR_LAST (R78). -/
def execDecCharLast (c : Nat) (s : State) : Host.Outcome State Fault Refusal :=
  acceptDec s (decCharLastRule c)

/-- DEC_END (R79). -/
def execDecEnd (s : State) : Host.Outcome State Fault Refusal :=
  acceptDec s decEndRule

/-- DEC_NOP (R80): accepted only when DEC is ready, like every beat. -/
def execDecNop (s : State) : Host.Outcome State Fault Refusal :=
  acceptDec s decNopRule

end Sys2Proof.Machine
end

