-- ==== Sys2Proof/Machine/EncUnit.lean ====
section
/-! DEFINITION. The ENC unit's beats (40_encoder.md R64 to R67). -/

namespace Sys2Proof.Machine

/-- R64's register transfer: `e_active` is set, and the byte is held or completes a full group. -/
def encByteRule (b : Byte) (u : Enc) : Except Fault Enc :=
  if u.eCnt = 0#2 then .ok { u with eActive := true, eB0 := b, eCnt := 1 }
  else if u.eCnt = 1#2 then .ok { u with eActive := true, eB1 := b, eCnt := 2 }
  else if u.eCnt = 2#2 then
    .ok (Enc.push { u with eActive := true, eB0 := 0, eB1 := 0, eCnt := 0 }
      (encDataWord (pack (groupWord u.eB0 u.eB1 b) 0)))
  else .error .encCntIllegal

/-- The first part of R66: push the padded final group, if one is held. -/
def encFlush (u : Enc) : Except Fault Enc :=
  if u.eCnt = 0#2 then .ok u
  else if u.eCnt = 1#2 then .ok (u.push (encDataWord (pack (groupWord u.eB0 0 0) 2)))
  else if u.eCnt = 2#2 then .ok (u.push (encDataWord (pack (groupWord u.eB0 u.eB1 0) 1)))
  else .error .encCntIllegal

/-- R66's register transfer: the padded group, then the END beat, then every register to 0. -/
def encEndRule (u : Enc) : Except Fault Enc :=
  match encFlush u with
  | .ok v => .ok (v.push encEndWord).clear
  | .error f => .error f

/-- R65's register transfer: R64's, then R66's on the registers it left. -/
def encByteLastRule (b : Byte) (u : Enc) : Except Fault Enc :=
  match encByteRule b u with
  | .ok v => encEndRule v
  | .error f => .error f

/-- R67's register transfer: skip. -/
def encNopRule (u : Enc) : Except Fault Enc := .ok u

/-- ENC_BYTE (R64). -/
def execEncByte (b : Byte) (s : State) : Host.Outcome State Fault Refusal :=
  acceptEnc s (encByteRule b)

/-- ENC_BYTE_LAST (R65). -/
def execEncByteLast (b : Byte) (s : State) : Host.Outcome State Fault Refusal :=
  acceptEnc s (encByteLastRule b)

/-- ENC_END (R66). -/
def execEncEnd (s : State) : Host.Outcome State Fault Refusal :=
  acceptEnc s encEndRule

/-- ENC_NOP (R67): accepted only when ENC is ready, like every beat. -/
def execEncNop (s : State) : Host.Outcome State Fault Refusal :=
  acceptEnc s encNopRule

end Sys2Proof.Machine
end

