-- ==== Sys2Proof/Machine/Dispatch.lean ====
section
/-! DEFINITION. The beat kinds and their meanings: one arm per constructor of Instr (30_encoding.md R52, 42_handshake.md R94). -/

namespace Sys2Proof.Machine

def exec (i : Instr) (s : State) : Host.Outcome State Fault Refusal :=
  match i with
  | .encByte b => Sys2Proof.Machine.execEncByte b s
  | .encByteLast b => Sys2Proof.Machine.execEncByteLast b s
  | .encEnd => Sys2Proof.Machine.execEncEnd s
  | .encNop => Sys2Proof.Machine.execEncNop s
  | .decChar c => Sys2Proof.Machine.execDecChar c s
  | .decCharLast c => Sys2Proof.Machine.execDecCharLast c s
  | .decEnd => Sys2Proof.Machine.execDecEnd s
  | .decNop => Sys2Proof.Machine.execDecNop s

end Sys2Proof.Machine
end

