-- ==== Sys2Proof/Machine/HostPort.lean ====
section
/-! DEFINITION. The host's actions as steps (42_handshake.md R94 to R99): taking the next pending action, and what each does. -/

namespace Sys2Proof.Machine

/-- Take the host's next action; none when it has nothing pending. -/
def takeAction (s : State) : Option (HostAction × State) :=
  match s.env.actions with
  | [] => none
  | a :: rest => some (a, s.withActions rest)

/-- One step of R98's table. -/
def perform (a : HostAction) (s : State) : Host.Outcome State Fault Refusal :=
  match a with
  | .pushE ew => exec (decodeEnc ew) s
  | .pushD dw =>
    match decodeDec s.cfg dw with
    | .ok i => exec i s
    | .error .decWordTooWide => .refused .decWordTooWide
  | .popE => popEnc s
  | .popD => popDec s
  | .reset => .next (resetBlock s)

/-- The host action that offers a port word (R94). -/
def HostAction.ofWord : PortWord → HostAction
  | .enc ew => .pushE ew
  | .dec dw => .pushD dw

/-- The action that offers a word which the opcode table numbers; the number of bits tells the port, as
in `decodeTableWord`. -/
def tableAction (nbits w : Nat) : HostAction :=
  if nbits ≤ 16 then .pushE (BitVec.ofNat 10 w) else .pushD w

end Sys2Proof.Machine
end

