-- ==== Sys2Proof/Machine/Step.lean ====
section
/-! DEFINITION. The step: the host's next action happens; with none pending nothing does (42_handshake.md R98, R99). -/

namespace Sys2Proof.Machine

/-- One step of R98. With no pending action the block does nothing (R99, R132; log 4). -/
def step (s : State) : Host.Outcome State Fault Refusal :=
  match takeAction s with
  | none => .next s
  | some (a, t) => perform a t

/-- The state in which the host's next action offers the opcode-table word w. -/
def State.withFetchWord (s : State) (nbits w : Nat) : State :=
  s.withActions (tableAction nbits w :: s.env.actions)

end Sys2Proof.Machine
end

