-- ==== Sys2Proof/Machine/Message.lean ====
section
/-! DEFINITION. The message-level functions: ENCODE (40_encoder.md R68), DECODE (41_decoder.md R81 to R83), CANON (R88), what a message's beats are (R69, R84), the output beats of a DEC message (R84, R85), and how a host reads results from the beats it has popped (42_handshake.md R102, 60_exceptions.md R114). -/

namespace Sys2Proof.Machine

/-- `ENCODE(x)` (R68), as 8-bit character codes. -/
def encodeMsg : List Byte → List Byte
  | [] => []
  | [a] => charLanes (pack (groupWord a 0 0) 2)
  | [a, b] => charLanes (pack (groupWord a b 0) 1)
  | a :: b :: c :: rest => charLanes (pack (groupWord a b c) 0) ++ encodeMsg rest

/-- The result of `DECODE` (R81). -/
inductive DecResult where
  | ok (bytes : List Byte)
  | lengthError
  | characterError
deriving DecidableEq, Repr

/-- The status that goes with a result (R84). -/
def DecResult.status : DecResult → DecStatus
  | .ok _ => .ok
  | .lengthError => .lengthError
  | .characterError => .characterError

/-- The class of character i of a message. -/
def classAt (s : List Nat) (i : Nat) : CharClass := rev (s.getD i 0)

/-- `REV(c) = VAL(_)`. -/
def CharClass.isVal : CharClass → Bool
  | .val _ => true
  | .pad => false
  | .invalid => false

/-- The per-character test `ok(s, i)` of R82. -/
def okAt (s : List Nat) (i : Nat) : Bool :=
  (classAt s i).isVal ||
    (classAt s i == .pad &&
      (i + 1 == s.length || (i + 2 == s.length && classAt s (s.length - 1) == .pad)))

/-- The value a class contributes to a group: `u_i` of R83. -/
def CharClass.value : CharClass → Sextet
  | .val v => v
  | .pad => 0
  | .invalid => 0

/-- The number of PAD characters among some classes: `p_g` of R83. -/
def padCount (ks : List CharClass) : Nat := ks.countP (· == .pad)

/-- The bytes of one group of four characters (R83). -/
def groupBytes (a b c d : Nat) : List Byte :=
  let (b0, b1, b2) := unpack (rev a).value (rev b).value (rev c).value (rev d).value
  [b0, b1, b2].take (3 - padCount [rev a, rev b, rev c, rev d])

/-- `BYTES(s)` (R83). -/
def bytesOf : List Nat → List Byte
  | a :: b :: c :: d :: rest => groupBytes a b c d ++ bytesOf rest
  | _ => []

/-- `DECODE(s)` (R81): the checks in the source's order. -/
def decodeMsg (s : List Nat) : DecResult :=
  if s = [] then .ok []
  else if s.length % 4 ≠ 0 then .lengthError
  else if (List.range s.length).all (okAt s) then .ok (bytesOf s)
  else .characterError

/-- The character codes of a text, as numbers. -/
def codes (x : List Byte) : List Nat := x.map BitVec.toNat

/-- The last group of `CANON(s)` (R88): with padding, the last character before it is replaced by the
alphabet character whose value has the dropped bits (R87) cleared. -/
def canonGroup (a b c d : Nat) : List Nat :=
  if rev c = .pad then [a, (alpha ((rev b).value &&& 0b110000)).toNat, c, d]
  else if rev d = .pad then [a, b, (alpha ((rev c).value &&& 0b111100)).toNat, d]
  else [a, b, c, d]

/-- `CANON(s)` (R88). -/
def canon : List Nat → List Nat
  | [a, b, c, d] => canonGroup a b c d
  | a :: b :: c :: d :: rest => a :: b :: c :: d :: canon rest
  | s => s

/-- The dropped padding bits of a last group are all zero (R87, and the glossary's canonical form). -/
def zeroPadGroup (b c d : Nat) : Bool :=
  if rev c = .pad then (rev b).value &&& 0b001111 == 0
  else if rev d = .pad then (rev c).value &&& 0b000011 == 0
  else true

/-- Every padding bit of the message's last group is zero. -/
def zeroPadBits : List Nat → Bool
  | [_, b, c, d] => zeroPadGroup b c d
  | _ :: _ :: _ :: _ :: rest => zeroPadBits rest
  | _ => true

/-- The bytes of one ENC message: its beats are ENC_BYTE and ENC_NOP up to one closing ENC_END or
ENC_BYTE_LAST (R69); none if the beats are anything else. -/
def encMessage : List Instr → Option (List Byte)
  | [.encEnd] => some []
  | [.encByteLast b] => some [b]
  | .encNop :: l => encMessage l
  | .encByte b :: l => (encMessage l).map (b :: ·)
  | _ => none

/-- The characters of one DEC message (R84); none if the beats are anything else. -/
def decMessage : List Instr → Option (List Nat)
  | [.decEnd] => some []
  | [.decCharLast c] => some [c]
  | .decNop :: l => decMessage l
  | .decChar c :: l => (decMessage l).map (c :: ·)
  | _ => none

/-- The bytes of an ENC message that is still open: ENC_BYTE and ENC_NOP beats only (R103). -/
def encOpen : List Instr → Option (List Byte)
  | [] => some []
  | .encNop :: l => encOpen l
  | .encByte b :: l => (encOpen l).map (b :: ·)
  | _ => none

/-- The characters of a DEC message that is still open: DEC_CHAR and DEC_NOP beats only (R103). -/
def decOpen : List Instr → Option (List Nat)
  | [] => some []
  | .decNop :: l => decOpen l
  | .decChar c :: l => (decOpen l).map (c :: ·)
  | _ => none

/-- The ENC beats among some host actions, in order. -/
def encBeatsOf : List HostAction → List Instr
  | .pushE ew :: l => decodeEnc ew :: encBeatsOf l
  | _ :: l => encBeatsOf l
  | [] => []

/-- The DEC beats among some host actions, in order. -/
def decBeatsOf (p : Params) : List HostAction → List Instr
  | .pushD dw :: l =>
    match decodeDec p dw with
    | .ok i => i :: decBeatsOf p l
    | .error _ => decBeatsOf p l
  | _ :: l => decBeatsOf p l
  | [] => []

/-- The DATA beats DEC pushes for the leading full groups of a message: one with N = 3 for each group
of four VAL characters, up to the first group that is not such (R85). -/
def fullGroupBeats : List Nat → List DecOutWord
  | a :: b :: c :: d :: rest =>
    match rev a, rev b, rev c, rev d with
    | .val v0, .val v1, .val v2, .val v3 =>
      let (b0, b1, b2) := unpack v0 v1 v2 v3
      decDataWord 3 b0 b1 b2 :: fullGroupBeats rest
    | _, _, _, _ => []
  | _ => []

/-- Every ENC beat the unit has pushed and a reset has not dropped, in push order: those the host has
popped, then those still queued. -/
def State.encStream (s : State) : List EncOutWord := s.env.encGot ++ s.enc.eQ

/-- Every DEC beat the unit has pushed and a reset has not dropped, in push order. -/
def State.decStream (s : State) : List DecOutWord := s.env.decGot ++ s.dec.dQ

/-- The characters of the closed ENC messages among some output beats: one entry a message, the lanes
of its DATA beats (R102). A message without its END beat has no result (R103).

DESIGN CHOICE (log 20): the beats must have no RESET between them. A RESET in the middle of a message
pushes no END beat and leaves what the host has popped, so over beats from both sides of it the abandoned
message's DATA would be joined to the next message's; R121 does not say what a host makes of that DATA. -/
def encResultsFrom (acc : List Byte) : List EncOutWord → List (List Byte)
  | [] => []
  | w :: ws =>
    if encIsEnd w then acc :: encResultsFrom [] ws
    else encResultsFrom (acc ++ encLanes w) ws

/-- The results of the ENC messages a host has received with no RESET between them (R102, log 20). -/
def encResults (ws : List EncOutWord) : List (List Byte) := encResultsFrom [] ws

/-- The result a DEC END status gives, with the message's DATA bytes: they count only when the status
is END_OK (R102), and the host discards them otherwise (R114, K12). -/
def resultOf (st : DecStatus) (bytes : List Byte) : DecResult :=
  match st with
  | .ok => .ok bytes
  | .lengthError => .lengthError
  | .characterError => .characterError

/-- The results of the closed DEC messages among some output beats (R102, R103).

DESIGN CHOICE (log 20): the beats must have no RESET between them, as for encResultsFrom (R121). -/
def decResultsFrom (acc : List Byte) : List DecOutWord → List DecResult
  | [] => []
  | w :: ws =>
    match DecStatus.ofCode (decKind w) with
    | some st => resultOf st acc :: decResultsFrom [] ws
    | none => decResultsFrom (acc ++ decBytes w) ws

/-- The results of the DEC messages a host has received with no RESET between them (R102, log 20). -/
def decResults (ws : List DecOutWord) : List DecResult := decResultsFrom [] ws

/-- The codes one character of a text is split into under CHAR_UNIT (R133). As UTF-16 code units a
character above U+FFFF is a surrogate pair: PRESUMED, the UTF-16 arithmetic is not in the spec (log 16). -/
def charCodes (u : CharUnit) (c : Nat) : List Nat :=
  match u with
  | .codePoint => [c]
  | .utf16Unit =>
    if c ≤ 0xFFFF then [c]
    else [0xD800 + natField (c - 0x10000) 10 10, 0xDC00 + natField (c - 0x10000) 0 10]

/-- The DEC character codes of a text (R133). -/
def textCodes (u : CharUnit) (text : List Nat) : List Nat := (text.map (charCodes u)).flatten

end Sys2Proof.Machine
end

