-- ==== Sys2Proof/Machine/Asm.lean ====
section
/-! DEFINITION. The assembly syntax of vectors and programs (30_encoding.md R60 to R62): lines, the pseudo-instructions, and the assembler from text to host actions. Character codes stand for characters throughout. -/

namespace Sys2Proof.Machine

/-- A line of R60, R61 or R62, with its operands as numbers. -/
inductive AsmLine where
  /-- `enc.byte <b>` -/
  | encByte (b : Nat)
  /-- `enc.byte.last <b>` -/
  | encByteLast (b : Nat)
  /-- `enc.end` -/
  | encEnd
  /-- `enc.nop` -/
  | encNop
  /-- `dec.char <c>` -/
  | decChar (c : Nat)
  /-- `dec.char.last <c>` -/
  | decCharLast (c : Nat)
  /-- `dec.end` -/
  | decEnd
  /-- `dec.nop` -/
  | decNop
  /-- `enc.msg b_0, ..., b_{n-1}` (R61), or `enc.msg "s"` as vector S11 writes it (log 17) -/
  | encMsg (bs : List Nat)
  /-- `dec.msg "s"` (R61) -/
  | decMsg (cs : List Nat)
  /-- `pop.enc` (R62) -/
  | popEnc
  /-- `pop.dec` (R62) -/
  | popDec
  /-- `reset` (R62) -/
  | reset
deriving DecidableEq, Repr

/-- Why the assembler refuses a line (R60, K16). -/
inductive AsmError where
  /-- A byte operand is not in 0..255. -/
  | byteOutOfRange
  /-- A character operand is not in 0..2^CHAR_W - 1. -/
  | charOutOfRange
  /-- The text is no line of the syntax. -/
  | badLine
deriving DecidableEq, Repr

/-- A byte operand, refused outside 0..255 (R60). -/
def asmByte (n : Nat) : Except AsmError Byte :=
  if n < 256 then .ok (BitVec.ofNat 8 n) else .error .byteOutOfRange

/-- A character operand, refused outside 0..2^CHAR_W - 1 (R60). -/
def asmChar (p : Params) (n : Nat) : Except AsmError Nat :=
  if n < 2 ^ p.charW then .ok n else .error .charOutOfRange

/-- The host action that pushes a beat's word (R52, R94). -/
def pushOf (p : Params) (i : Instr) : HostAction := HostAction.ofWord (encode p i)

/-- `enc.msg`: one `enc.byte` for each operand, then `enc.end` (R61). -/
def encMsgBeats : List Nat → Except AsmError (List Instr)
  | [] => .ok [.encEnd]
  | n :: ns =>
    match asmByte n, encMsgBeats ns with
    | .ok b, .ok l => .ok (.encByte b :: l)
    | .error e, _ => .error e
    | _, .error e => .error e

/-- `dec.msg`: one `dec.char` for each character, then `dec.end` (R61). -/
def decMsgBeats (p : Params) : List Nat → Except AsmError (List Instr)
  | [] => .ok [.decEnd]
  | n :: ns =>
    match asmChar p n, decMsgBeats p ns with
    | .ok c, .ok l => .ok (.decChar c :: l)
    | .error e, _ => .error e
    | _, .error e => .error e

/-- The host actions of one line (R60 to R62). The host's CHAR_UNIT says what one character of a
`dec.msg` string is (R133). -/
def assembleLine (p : Params) (u : CharUnit) : AsmLine → Except AsmError (List HostAction)
  | .encByte n => (asmByte n).map fun b => [pushOf p (.encByte b)]
  | .encByteLast n => (asmByte n).map fun b => [pushOf p (.encByteLast b)]
  | .encEnd => .ok [pushOf p .encEnd]
  | .encNop => .ok [pushOf p .encNop]
  | .decChar n => (asmChar p n).map fun c => [pushOf p (.decChar c)]
  | .decCharLast n => (asmChar p n).map fun c => [pushOf p (.decCharLast c)]
  | .decEnd => .ok [pushOf p .decEnd]
  | .decNop => .ok [pushOf p .decNop]
  | .encMsg bs => (encMsgBeats bs).map fun l => l.map (pushOf p)
  | .decMsg cs => (decMsgBeats p (textCodes u cs)).map fun l => l.map (pushOf p)
  | .popEnc => .ok [.popE]
  | .popDec => .ok [.popD]
  | .reset => .ok [.reset]

/-- The host actions of a program, line by line; the first line refused refuses the program. -/
def assemble (p : Params) (u : CharUnit) : List AsmLine → Except AsmError (List HostAction)
  | [] => .ok []
  | x :: xs =>
    match assembleLine p u x, assemble p u xs with
    | .ok l, .ok m => .ok (l ++ m)
    | .error e, _ => .error e
    | _, .error e => .error e

/-- The tokens of a line of text. -/
inductive AsmToken where
  /-- A mnemonic. -/
  | word (cs : List Char)
  /-- A number or a quoted character, as its value (R60). -/
  | num (n : Nat)
  /-- A quoted string, as its character codes (R61, 95_test_vectors.md). -/
  | str (cs : List Nat)
  /-- A comma between operands (R61). -/
  | comma
deriving DecidableEq, Repr

/-- The value of a digit in base 10 or 16; both letter cases are read (log 17). -/
def digitValue (base : Nat) (c : Char) : Option Nat :=
  let n := c.toNat
  let v :=
    if 0x30 ≤ n ∧ n ≤ 0x39 then n - 0x30
    else if 0x41 ≤ n ∧ n ≤ 0x46 then n - 0x41 + 10
    else if 0x61 ≤ n ∧ n ≤ 0x66 then n - 0x61 + 10
    else 16
  if v < base then some v else none

/-- The value of a digit string read from left to right, after the value acc. -/
def digitsValue (base acc : Nat) : List Char → Option Nat
  | [] => some acc
  | c :: cs =>
    match digitValue base c with
    | some v => digitsValue base (acc * base + v) cs
    | none => none

/-- A number: decimal digits, or 0x and hexadecimal digits (R60). -/
def numberValue : List Char → Option Nat
  | '0' :: 'x' :: c :: cs => digitsValue 16 0 (c :: cs)
  | c :: cs => digitsValue 10 0 (c :: cs)
  | [] => none

/-- The token of a run of characters: a number if it begins with a digit, a mnemonic otherwise; nothing
for an empty run. -/
def runToken : List Char → Option (List AsmToken)
  | [] => some []
  | c :: cs =>
    match digitValue 10 c with
    | some _ => (numberValue (c :: cs)).map fun n => [.num n]
    | none => some [.word (c :: cs)]

/-- Put the token of a finished run before the tokens after it. -/
def afterRun (run : List Char) (rest : Option (List AsmToken)) : Option (List AsmToken) :=
  match runToken run, rest with
  | some a, some b => some (a ++ b)
  | _, _ => none

/-- The tokens of a line, given what has been read of the current string (`inString`) or run. A `;`
outside quotes starts a comment (R60); blanks and tabs separate (log 17). -/
def tokensFrom (inString : Bool) (run : List Char) : List Char → Option (List AsmToken)
  | [] => if inString then none else runToken run
  | c :: l =>
    if inString then
      if c.toNat = 0x22 then (tokensFrom false [] l).map fun t => .str (run.map Char.toNat) :: t
      else tokensFrom true (run ++ [c]) l
    else if c.toNat = 0x27 then
      match l with
      | q :: e :: l' =>
        if e.toNat = 0x27 then
          afterRun run ((tokensFrom false [] l').map fun t => .num q.toNat :: t)
        else none
      | _ => none
    else if c.toNat = 0x22 then afterRun run (tokensFrom true [] l)
    else if c.toNat = 0x3B then runToken run
    else if c.toNat = 0x2C then afterRun run ((tokensFrom false [] l).map fun t => .comma :: t)
    else if c.toNat = 0x20 ∨ c.toNat = 0x09 then afterRun run (tokensFrom false [] l)
    else tokensFrom false (run ++ [c]) l

/-- Operands separated by commas, at least one. -/
def numList : List AsmToken → Option (List Nat)
  | [.num n] => some [n]
  | .num n :: .comma :: l => (numList l).map (n :: ·)
  | _ => none

/-- The line a list of tokens stands for; none for an empty or comment-only line.

DESIGN CHOICE (log 17): `enc.msg` takes one quoted string as its whole operand, standing for the codes of
its characters. R61 shows only numbers, but vector S11 writes `enc.msg "Man"`, and 95_test_vectors.md has
a string in quotes stand for the ASCII codes of its characters. A character whose code is no byte is then
refused as any operand above 255 is (R60). -/
def lineOf (toks : List AsmToken) : Except AsmError (Option AsmLine) :=
  match toks with
  | [] => .ok none
  | [.word w] =>
    if w = ['e', 'n', 'c', '.', 'e', 'n', 'd'] then .ok (some .encEnd)
    else if w = ['e', 'n', 'c', '.', 'n', 'o', 'p'] then .ok (some .encNop)
    else if w = ['d', 'e', 'c', '.', 'e', 'n', 'd'] then .ok (some .decEnd)
    else if w = ['d', 'e', 'c', '.', 'n', 'o', 'p'] then .ok (some .decNop)
    else if w = ['e', 'n', 'c', '.', 'm', 's', 'g'] then .ok (some (.encMsg []))
    else if w = ['p', 'o', 'p', '.', 'e', 'n', 'c'] then .ok (some .popEnc)
    else if w = ['p', 'o', 'p', '.', 'd', 'e', 'c'] then .ok (some .popDec)
    else if w = ['r', 'e', 's', 'e', 't'] then .ok (some .reset)
    else .error .badLine
  | [.word w, .str cs] =>
    if w = ['d', 'e', 'c', '.', 'm', 's', 'g'] then .ok (some (.decMsg cs))
    else if w = ['e', 'n', 'c', '.', 'm', 's', 'g'] then .ok (some (.encMsg cs))
    else .error .badLine
  | .word w :: rest =>
    match numList rest with
    | none => .error .badLine
    | some ns =>
      if w = ['e', 'n', 'c', '.', 'm', 's', 'g'] then .ok (some (.encMsg ns))
      else
        match ns with
        | [n] =>
          if w = ['e', 'n', 'c', '.', 'b', 'y', 't', 'e'] then .ok (some (.encByte n))
          else if w = ['e', 'n', 'c', '.', 'b', 'y', 't', 'e', '.', 'l', 'a', 's', 't'] then
            .ok (some (.encByteLast n))
          else if w = ['d', 'e', 'c', '.', 'c', 'h', 'a', 'r'] then .ok (some (.decChar n))
          else if w = ['d', 'e', 'c', '.', 'c', 'h', 'a', 'r', '.', 'l', 'a', 's', 't'] then
            .ok (some (.decCharLast n))
          else .error .badLine
        | _ => .error .badLine
  | _ => .error .badLine

/-- Read one line of text (R60 to R62). -/
def parseLine (text : List Char) : Except AsmError (Option AsmLine) :=
  match tokensFrom false [] text with
  | some toks => lineOf toks
  | none => .error .badLine

/-- Assemble one line of text. -/
def assembleText (p : Params) (u : CharUnit) (text : List Char) : Except AsmError (List HostAction) :=
  match parseLine text with
  | .ok (some x) => assembleLine p u x
  | .ok none => .ok []
  | .error e => .error e

end Sys2Proof.Machine
end

