-- ==== Sys2Proof/Safety.lean ====
section
/-! DEFINITION. What holds in every state a run from reset reaches (10_state.md R25, 30_encoding.md R58), and runs of host actions. -/

namespace Sys2Proof.Machine

/-- I1: `e_cnt` is 0, 1 or 2. -/
abbrev Enc.I1 (u : Enc) : Prop := u.eCnt ≠ 3#2

/-- I2: a register that holds no byte is 0. -/
abbrev Enc.I2 (u : Enc) : Prop :=
  (u.eCnt = 0#2 → u.eB0 = 0 ∧ u.eB1 = 0) ∧ (u.eCnt = 1#2 → u.eB1 = 0)

/-- I3: between messages no byte is held. -/
abbrev Enc.I3 (u : Enc) : Prop := u.eActive = false → u.eCnt = 0#2

/-- I4: at the start of a group every group register is 0. -/
abbrev Dec.I4 (d : Dec) : Prop :=
  d.dPos = 0#2 → d.dV0 = 0 ∧ d.dV1 = 0 ∧ d.dV2 = 0 ∧ d.dPad2 = false

/-- I5: without an error, the registers of positions not yet reached are 0. -/
abbrev Dec.I5 (d : Dec) : Prop :=
  d.dErr = false →
    (d.dPos ≤ 0#2 → d.dV0 = 0) ∧ (d.dPos ≤ 1#2 → d.dV1 = 0) ∧
    (d.dPos ≤ 2#2 → d.dV2 = 0 ∧ d.dPad2 = false)

/-- I6: a group is held only between groups and without an error. -/
abbrev Dec.I6 (d : Dec) : Prop :=
  d.dHoldValid = true → d.dPos = 0#2 ∧ d.dErr = false ∧ (d.dHoldN = 1#2 ∨ d.dHoldN = 2#2)

/-- I7: the hold registers are 0 when nothing is held. -/
abbrev Dec.I7 (d : Dec) : Prop := d.dHoldValid = false → d.dHoldN = 0 ∧ d.dHoldBytes = 0

/-- I8: the unused held byte is 0. -/
abbrev Dec.I8 (d : Dec) : Prop := d.dHoldN = 1#2 → d.dHoldBytes.extractLsb' 0 8 = 0#8

/-- I9: between messages nothing is pending. -/
abbrev Dec.I9 (d : Dec) : Prop :=
  d.dActive = false → d.dPos = 0#2 ∧ d.dErr = false ∧ d.dHoldValid = false

/-- I10: no queue is over its capacity (R97). -/
abbrev State.I10 (s : State) : Prop :=
  s.enc.eQ.length ≤ s.cfg.outqDepth ∧ s.dec.dQ.length ≤ s.cfg.outqDepth

/-- The ENC unit's invariants of R25. -/
abbrev Enc.Inv (u : Enc) : Prop := u.I1 ∧ u.I2 ∧ u.I3

/-- The DEC unit's invariants of R25. -/
abbrev Dec.Inv (d : Dec) : Prop := d.I4 ∧ d.I5 ∧ d.I6 ∧ d.I7 ∧ d.I8 ∧ d.I9

/-- The invariants of R25, with legal parameters (R8). -/
abbrev State.Inv (s : State) : Prop := s.cfg.WF ∧ s.enc.Inv ∧ s.dec.Inv ∧ s.I10

/-- A code is one of ALPHA's. -/
abbrev isAlphaCode (c : Byte) : Prop := c ∈ alphaRom

/-- A well-formed ENC output word (R58): an END word has no characters; a DATA word has alphabet codes,
with 0x3D allowed in C3, and in C2 only if C3 is 0x3D too. -/
abbrev EncWordWF (w : EncOutWord) : Prop :=
  if encIsEnd w then w.extractLsb' 0 32 = 0#32
  else
    isAlphaCode (w.extractLsb' 24 8) ∧ isAlphaCode (w.extractLsb' 16 8) ∧
    (isAlphaCode (w.extractLsb' 8 8) ∨ w.extractLsb' 8 8 = padCode ∧ w.extractLsb' 0 8 = padCode) ∧
    (isAlphaCode (w.extractLsb' 0 8) ∨ w.extractLsb' 0 8 = padCode)

/-- A well-formed DEC output word (R58): a DATA word has N in 1..3 and every unused lane 0; an END word
has bits [25:0] = 0. -/
abbrev DecWordWF (w : DecOutWord) : Prop :=
  if decKind w = 0#2 then
    decCount w ≠ 0#2 ∧ (decCount w = 1#2 → w.extractLsb' 0 16 = 0#16) ∧
    (decCount w = 2#2 → w.extractLsb' 0 8 = 0#8)
  else w.extractLsb' 0 26 = 0#26

/-- Every beat in the queues is well formed (R58). -/
abbrev State.OutWF (s : State) : Prop :=
  s.enc.eQ.all (fun w => decide (EncWordWF w)) = true ∧
  s.dec.dQ.all (fun w => decide (DecWordWF w)) = true

/-- ENC is between messages: its registers have their reset values (R66, R73). -/
abbrev Enc.AtStart (u : Enc) : Prop :=
  u.eCnt = 0 ∧ u.eB0 = 0 ∧ u.eB1 = 0 ∧ u.eActive = false

/-- DEC is between messages: its registers have their reset values (R79, R89). -/
abbrev Dec.AtStart (d : Dec) : Prop :=
  d.dPos = 0 ∧ d.dV0 = 0 ∧ d.dV1 = 0 ∧ d.dV2 = 0 ∧ d.dPad2 = false ∧ d.dErr = false ∧
  d.dHoldValid = false ∧ d.dHoldN = 0 ∧ d.dHoldBytes = 0 ∧ d.dActive = false

/-- The outcome of the machine's steps over a whole list of host actions, from state s: each must be
enabled, or the run stops. -/
def runActions (s : State) (l : List HostAction) : Host.Outcome State Fault Refusal :=
  Sys2Proof.core.run l.length (s.withActions l)

end Sys2Proof.Machine
end

