-- ==== Sys2Proof/Certificates/Slice0/Obligations.lean ====
section
/-! DEFINITION. The statements for the provers, each a rule of the spec or a consequence of several. -/

open Sys2Proof Sys2Proof.Machine

/-! ### Reset and the step -/

/-- 10_state.md R28: the reset value of every piece of state. -/
def Obligations.ResetGivesEveryRegisterItsValue : Prop :=
  State.reset.enc =
      { eCnt := 0#2, eB0 := 0x00#8, eB1 := 0x00#8, eActive := false, eQ := [] } ∧
    State.reset.dec =
      { dPos := 0#2, dV0 := 0#6, dV1 := 0#6, dV2 := 0#6, dPad2 := false, dErr := false,
        dHoldValid := false, dHoldN := 0#2, dHoldBytes := 0x0000#16, dActive := false, dQ := [] }

/-- The model's own fields at reset: the default parameters of R8 (log 1) and an empty host side (logs
2 and 3). These are the model's choices. -/
def Obligations.ResetHostSideIsEmpty : Prop :=
  State.reset.cfg = { charW := 21, outqDepth := 2 } ∧
    State.reset.env = { actions := [], encGot := [], decGot := [] } ∧ State.reset.cfg.WF

/-- 70_reset_and_hazards.md R120, the RESET step: from every state, even an illegal one, it leaves both
units at their reset values and both queues empty, in the middle of a message too (R121). That the
host's side and the parameters stay is the model's choice (log 13). -/
def Obligations.ResetStepClearsBothUnits : Prop :=
  ∀ (s : State) (rest : List HostAction), s.env.actions = .reset :: rest →
    step s = .next
      { enc := { eCnt := 0, eB0 := 0, eB1 := 0, eActive := false, eQ := [] },
        dec := { dPos := 0, dV0 := 0, dV1 := 0, dV2 := 0, dPad2 := false, dErr := false,
                 dHoldValid := false, dHoldN := 0, dHoldBytes := 0, dActive := false, dQ := [] },
        cfg := s.cfg, env := { s.env with actions := rest } }

/-- A unit never steps by itself (R99): with no pending host action nothing changes. That such a step
answers a next state is the model's choice (log 4). -/
def Obligations.IdleHostChangesNothing : Prop :=
  ∀ s : State, s.env.actions = [] → step s = .next s

/-- A step runs the decoded beat: when the host's next action offers a word, the step is exec of the
beat the word decodes to, on the state without that action (R94). -/
def Obligations.StepRunsTheDecodedBeat : Prop :=
  (∀ (s : State) (ew : EncInWord) (rest : List HostAction), s.env.actions = .pushE ew :: rest →
      step s = exec (decodeEnc ew) (s.withActions rest)) ∧
  (∀ (s : State) (dw : Nat) (i : Instr) (rest : List HostAction), s.env.actions = .pushD dw :: rest →
      decodeDec s.cfg dw = .ok i → step s = exec i (s.withActions rest))

/-- A word of the opcode table, offered as the host's next action, runs as the instruction the decoder
gives it, at the default CHAR_W (the model's reading of the table, log 11). -/
def Obligations.TableWordRunsItsBeat : Prop :=
  ∀ (s : State) (nbits w : Nat) (i : Instr), s.cfg = Params.standard →
    decodeTableWord nbits w = some i → step (s.withFetchWord nbits w) = exec i s

/-- The model's own fields over a step, which is the model's choice throughout: a step takes the host's
next pending action (log 2), or none when none is pending (log 4), and never writes the parameters
(log 1). R26 counts neither field as state; R14 and R98 are what the choice answers to. -/
def Obligations.StepTakesOneActionAndKeepsParameters : Prop :=
  ∀ s s' : State, step s = .next s' →
    s'.cfg = s.cfg ∧ s'.env.actions = s.env.actions.tail

/-! ### Encoding -/

/-- Words of 30_encoding.md R52, written out from R48 and R50, decode to their beats. -/
def Obligations.KnownWordsDecode : Prop :=
  decodeTableWord 16 0x061 = some (.encByte 0x61) ∧
  decodeTableWord 16 0x261 = some (.encByteLast 0x61) ∧
  decodeTableWord 16 0x300 = some .encEnd ∧ decodeTableWord 16 0x100 = some .encNop ∧
  decodeTableWord 24 0x000059 = some (.decChar 0x59) ∧
  decodeTableWord 24 0x40003D = some (.decCharLast 0x3D) ∧
  decodeTableWord 24 0x600000 = some .decEnd ∧ decodeTableWord 24 0x200000 = some .decNop

/-- Decode and encode agree: for every CHAR_W and every well-formed beat, the encoded word fits its port
and decodes to that beat (R48 to R52, R59). -/
def Obligations.DecodeEncodeRoundTrip : Prop :=
  ∀ (p : Params) (i : Instr), i.wf p = true →
    (encode p i).wf p = true ∧ (encode p i).isEnc = i.isEnc ∧
    (encode p i).value < 2 ^ portWidth p i ∧ decode p (encode p i) = .ok i

/-- R54: every word of a port decodes, to a well-formed beat of that port, and by R52's match and mask
to exactly one kind. -/
def Obligations.DecoderIsTotalAndUnambiguous : Prop :=
  ∀ (p : Params) (w : PortWord), w.wf p = true →
    ∃ i, decode p w = .ok i ∧ i.wf p = true ∧ i.isEnc = w.isEnc ∧
      ∀ j : Instr, j.isEnc = i.isEnc →
        (w.value &&& (opMatch p j).2 = (opMatch p j).1 ↔ opMatch p j = opMatch p i)

/-- R53: with NULL = 1 the data field is ignored, for every value of it and every CHAR_W; the encoder
drives it as 0. -/
def Obligations.IgnoredFieldHasNoEffect : Prop :=
  (∀ b : Byte, decodeEnc (0b11#2 ++ b) = .encEnd ∧ decodeEnc (0b01#2 ++ b) = .encNop) ∧
  (∀ (p : Params) (c : Nat), c < 2 ^ p.charW →
    decodeDec p (3 * 2 ^ p.charW + c) = .ok .decEnd ∧ decodeDec p (1 * 2 ^ p.charW + c) = .ok .decNop) ∧
  (∀ p : Params, encode p .encEnd = .enc 0x300 ∧ encode p .encNop = .enc 0x100 ∧
    encode p .decEnd = .dec (3 * 2 ^ p.charW) ∧ encode p .decNop = .dec (1 * 2 ^ p.charW))

/-! ### ROMs and packing -/

/-- 20_memory.md R31: ALPHA has 64 entries, and the formula gives each of them. -/
def Obligations.AlphaRomFollowsItsFormula : Prop :=
  alphaRom.length = 64 ∧
  ∀ i : Sextet,
    (i.toNat ≤ 25 → (alpha i).toNat = 0x41 + i.toNat) ∧
    (26 ≤ i.toNat ∧ i.toNat ≤ 51 → (alpha i).toNat = 0x61 + (i.toNat - 26)) ∧
    (52 ≤ i.toNat ∧ i.toNat ≤ 61 → (alpha i).toNat = 0x30 + (i.toNat - 52)) ∧
    (i.toNat = 62 → (alpha i).toNat = 0x2B) ∧ (i.toNat = 63 → (alpha i).toNat = 0x2F)

/-- R32: the 64 entries are pairwise distinct, and none of them is 0x3D. -/
def Obligations.AlphaEntriesAreDistinctAndNotPad : Prop :=
  (∀ i j : Sextet, alpha i = alpha j → i = j) ∧ ∀ i : Sextet, alpha i ≠ 0x3D#8

/-- R34: the reverse look-up inverts ALPHA, on every code of any width. -/
def Obligations.RevInvertsAlpha : Prop :=
  ∀ c : Nat,
    (∀ i : Sextet, rev c = .val i ↔ c = (alpha i).toNat) ∧
    (rev c = .pad ↔ c = 0x3D) ∧
    (rev c = .invalid ↔ (∀ i : Sextet, c ≠ (alpha i).toNat) ∧ c ≠ 0x3D)

/-- R35: the 128-entry ROM behind a range check gives REV, and no entry has another value. -/
def Obligations.RevRomWithRangeCheckIsRev : Prop :=
  (∀ c : Nat, revByRom c = rev c) ∧ revRom.length = 128 ∧
  ∀ e ∈ revRom, e.toNat ≤ 0x3F ∨ e = 0x40#8 ∨ e = 0x80#8

/-- R39: bits are packed most significant first, in both directions. -/
def Obligations.GroupBitsAreMostSignificantFirst : Prop :=
  (∀ b0 b1 b2 : Byte,
    (groupWord b0 b1 b2).toNat = b0.toNat * 2 ^ 16 + b1.toNat * 2 ^ 8 + b2.toNat ∧
    sextetWord (sextetOf (groupWord b0 b1 b2) 0) (sextetOf (groupWord b0 b1 b2) 1)
      (sextetOf (groupWord b0 b1 b2) 2) (sextetOf (groupWord b0 b1 b2) 3) = groupWord b0 b1 b2) ∧
  (∀ v0 v1 v2 v3 : Sextet,
    (sextetWord v0 v1 v2 v3).toNat =
      v0.toNat * 2 ^ 18 + v1.toNat * 2 ^ 12 + v2.toNat * 2 ^ 6 + v3.toNat ∧
    ∃ b0 b1 b2, unpack v0 v1 v2 v3 = (b0, b1, b2) ∧ groupWord b0 b1 b2 = sextetWord v0 v1 v2 v3)

/-- 40_encoder.md R63: the four lanes of the packer for each padding count, and the zero fill of the last
index of a short group. -/
def Obligations.PackerLanesOfEachGroupSize : Prop :=
  ∀ b0 b1 b2 : Byte,
    charLanes (pack (groupWord b0 b1 b2) 0) =
      [alpha (b0.extractLsb' 2 6), alpha (b0.extractLsb' 0 2 ++ b1.extractLsb' 4 4),
       alpha (b1.extractLsb' 0 4 ++ b2.extractLsb' 6 2), alpha (b2.extractLsb' 0 6)] ∧
    charLanes (pack (groupWord b0 b1 b2) 1) =
      [alpha (b0.extractLsb' 2 6), alpha (b0.extractLsb' 0 2 ++ b1.extractLsb' 4 4),
       alpha (b1.extractLsb' 0 4 ++ b2.extractLsb' 6 2), 0x3D#8] ∧
    charLanes (pack (groupWord b0 b1 b2) 2) =
      [alpha (b0.extractLsb' 2 6), alpha (b0.extractLsb' 0 2 ++ b1.extractLsb' 4 4), 0x3D#8, 0x3D#8] ∧
    sextetOf (groupWord b0 b1 0) 2 = b1.extractLsb' 0 4 ++ 0b00#2 ∧
    sextetOf (groupWord b0 0 0) 1 = b0.extractLsb' 0 2 ++ 0b0000#4

/-! ### The ENC beats: result, frame and completion -/

/-- R64 with the acceptance condition of R94: for every byte and every state with `e_cnt` legal and ENC
ready, ENC_BYTE's next state is exactly this, so everything not named is unchanged. -/
def Obligations.EncByteResult : Prop :=
  (∀ b : Byte, decodeEnc (0b00#2 ++ b) = .encByte b) ∧
  ∀ (s : State) (b : Byte), s.encInReady = true →
    (s.enc.eCnt = 0#2 → exec (.encByte b) s =
      .next { s with enc := { s.enc with eActive := true, eB0 := b, eCnt := 1#2 } }) ∧
    (s.enc.eCnt = 1#2 → exec (.encByte b) s =
      .next { s with enc := { s.enc with eActive := true, eB1 := b, eCnt := 2#2 } }) ∧
    (s.enc.eCnt = 2#2 → exec (.encByte b) s =
      .next { s with enc :=
        { eActive := true, eB0 := 0, eB1 := 0, eCnt := 0#2,
          eQ := s.enc.eQ ++ [0b0#1 ++ pack (groupWord s.enc.eB0 s.enc.eB1 b) 0] } })

/-- R65: ENC_BYTE_LAST pushes two beats in every case and leaves every ENC register at its reset value;
everything else is unchanged. -/
def Obligations.EncByteLastResult : Prop :=
  (∀ b : Byte, decodeEnc (0b10#2 ++ b) = .encByteLast b) ∧
  ∀ (s : State) (b : Byte), s.encInReady = true →
    (s.enc.eCnt = 0#2 → exec (.encByteLast b) s =
      .next { s with enc :=
        { eActive := false, eB0 := 0, eB1 := 0, eCnt := 0#2,
          eQ := s.enc.eQ ++ [0b0#1 ++ pack (groupWord b 0 0) 2, 0b1#1 ++ 0#32] } }) ∧
    (s.enc.eCnt = 1#2 → exec (.encByteLast b) s =
      .next { s with enc :=
        { eActive := false, eB0 := 0, eB1 := 0, eCnt := 0#2,
          eQ := s.enc.eQ ++ [0b0#1 ++ pack (groupWord s.enc.eB0 b 0) 1, 0b1#1 ++ 0#32] } }) ∧
    (s.enc.eCnt = 2#2 → exec (.encByteLast b) s =
      .next { s with enc :=
        { eActive := false, eB0 := 0, eB1 := 0, eCnt := 0#2,
          eQ := s.enc.eQ ++
            [0b0#1 ++ pack (groupWord s.enc.eB0 s.enc.eB1 b) 0, 0b1#1 ++ 0#32] } })

/-- R66: ENC_END pushes the padded final group if there is one, then END, and leaves every ENC register
at its reset value; everything else is unchanged. -/
def Obligations.EncEndResult : Prop :=
  (∀ b : Byte, decodeEnc (0b11#2 ++ b) = .encEnd) ∧
  ∀ s : State, s.encInReady = true →
    (s.enc.eCnt = 0#2 → exec .encEnd s =
      .next { s with enc :=
        { eActive := false, eB0 := 0, eB1 := 0, eCnt := 0#2,
          eQ := s.enc.eQ ++ [0b1#1 ++ 0#32] } }) ∧
    (s.enc.eCnt = 1#2 → exec .encEnd s =
      .next { s with enc :=
        { eActive := false, eB0 := 0, eB1 := 0, eCnt := 0#2,
          eQ := s.enc.eQ ++ [0b0#1 ++ pack (groupWord s.enc.eB0 0 0) 2, 0b1#1 ++ 0#32] } }) ∧
    (s.enc.eCnt = 2#2 → exec .encEnd s =
      .next { s with enc :=
        { eActive := false, eB0 := 0, eB1 := 0, eCnt := 0#2,
          eQ := s.enc.eQ ++
            [0b0#1 ++ pack (groupWord s.enc.eB0 s.enc.eB1 0) 1, 0b1#1 ++ 0#32] } })

/-- R67: ENC_NOP is accepted only when ENC is ready, and changes nothing. -/
def Obligations.EncNopResult : Prop :=
  (∀ b : Byte, decodeEnc (0b01#2 ++ b) = .encNop) ∧
  ∀ s : State, s.encInReady = true → exec .encNop s = .next s

/-- An ENC beat that reads `e_cnt` stops where it is 3, a value R15 calls unreachable and for which R64
and R66 have no case. That it stops is the model's choice (log 7). -/
def Obligations.IllegalEncCountStopsTheBeat : Prop :=
  ∀ (s : State) (b : Byte), s.encInReady = true → s.enc.eCnt = 3#2 →
    exec (.encByte b) s = .fault .encCntIllegal ∧
    exec (.encByteLast b) s = .fault .encCntIllegal ∧ exec .encEnd s = .fault .encCntIllegal

/-! ### The DEC beats: result, frame and completion -/

/-- 41_decoder.md R92 (R77 by position and class), and its two general rows: for every character and
every state with DEC ready, DEC_CHAR's next state is exactly this, so everything not named is
unchanged. -/
def Obligations.DecCharTable : Prop :=
  (∀ (p : Params) (c : Nat), c < 2 ^ p.charW → decodeDec p c = .ok (.decChar c)) ∧
  ∀ (s : State) (c : Nat) (d : Dec), s.decInReady = true → s.dec = d →
    -- a sticky error: the character is only counted
    (d.dErr = true → d.dPos ≠ 3#2 → exec (.decChar c) s =
      .next { s with dec := { d with dPos := d.dPos + 1, dActive := true } }) ∧
    (d.dErr = true → d.dPos = 3#2 → exec (.decChar c) s =
      .next { s with dec := { d with
        dPos := 0, dActive := true, dV0 := 0, dV1 := 0, dV2 := 0, dPad2 := false } }) ∧
    -- a character after a padded group: an error, and the held group is dropped
    (d.dErr = false → d.dHoldValid = true → d.dPos ≠ 3#2 → exec (.decChar c) s =
      .next { s with dec := { d with
        dPos := d.dPos + 1, dActive := true, dErr := true,
        dHoldValid := false, dHoldN := 0, dHoldBytes := 0 } }) ∧
    (d.dErr = false → d.dHoldValid = true → d.dPos = 3#2 → exec (.decChar c) s =
      .next { s with dec := { d with
        dPos := 0, dActive := true, dErr := true, dHoldValid := false, dHoldN := 0,
        dHoldBytes := 0, dV0 := 0, dV1 := 0, dV2 := 0, dPad2 := false } }) ∧
    -- the table proper
    (d.dErr = false → d.dHoldValid = false →
      (∀ v, d.dPos = 0#2 → rev c = .val v → exec (.decChar c) s =
        .next { s with dec := { d with dPos := 1, dActive := true, dV0 := v } }) ∧
      (d.dPos = 0#2 → rev c = .pad ∨ rev c = .invalid → exec (.decChar c) s =
        .next { s with dec := { d with dPos := 1, dActive := true, dErr := true } }) ∧
      (∀ v, d.dPos = 1#2 → rev c = .val v → exec (.decChar c) s =
        .next { s with dec := { d with dPos := 2, dActive := true, dV1 := v } }) ∧
      (d.dPos = 1#2 → rev c = .pad ∨ rev c = .invalid → exec (.decChar c) s =
        .next { s with dec := { d with dPos := 2, dActive := true, dErr := true } }) ∧
      (∀ v, d.dPos = 2#2 → rev c = .val v → exec (.decChar c) s =
        .next { s with dec := { d with dPos := 3, dActive := true, dV2 := v } }) ∧
      (d.dPos = 2#2 → rev c = .pad → exec (.decChar c) s =
        .next { s with dec := { d with dPos := 3, dActive := true, dPad2 := true } }) ∧
      (d.dPos = 2#2 → rev c = .invalid → exec (.decChar c) s =
        .next { s with dec := { d with dPos := 3, dActive := true, dErr := true } }) ∧
      (∀ v b0 b1 b2, d.dPos = 3#2 → rev c = .val v → d.dPad2 = false →
        unpack d.dV0 d.dV1 d.dV2 v = (b0, b1, b2) → exec (.decChar c) s =
        .next { s with dec := { d with
          dPos := 0, dActive := true, dV0 := 0, dV1 := 0, dV2 := 0, dPad2 := false,
          dQ := d.dQ ++ [0b00#2 ++ 0b11#2 ++ b0 ++ b1 ++ b2] } }) ∧
      (d.dPos = 3#2 → rev c = .invalid ∨ ((rev c).isVal = true ∧ d.dPad2 = true) →
        exec (.decChar c) s =
        .next { s with dec := { d with
          dPos := 0, dActive := true, dV0 := 0, dV1 := 0, dV2 := 0, dPad2 := false,
          dErr := true } }) ∧
      (∀ b0 b1 b2, d.dPos = 3#2 → rev c = .pad → d.dPad2 = false →
        unpack d.dV0 d.dV1 d.dV2 0 = (b0, b1, b2) → exec (.decChar c) s =
        .next { s with dec := { d with
          dPos := 0, dActive := true, dV0 := 0, dV1 := 0, dV2 := 0, dPad2 := false,
          dHoldValid := true, dHoldN := 2, dHoldBytes := b0 ++ b1 } }) ∧
      (∀ b0 b1 b2, d.dPos = 3#2 → rev c = .pad → d.dPad2 = true →
        unpack d.dV0 d.dV1 d.dV2 0 = (b0, b1, b2) → exec (.decChar c) s =
        .next { s with dec := { d with
          dPos := 0, dActive := true, dV0 := 0, dV1 := 0, dV2 := 0, dPad2 := false,
          dHoldValid := true, dHoldN := 1, dHoldBytes := b0 ++ 0x00#8 } }))

/-- R79: DEC_END pushes the held group when the status is OK, then the END beat with the status, the
length before the sticky error (R108), and leaves every DEC register at its reset value; everything
else is unchanged. -/
def Obligations.DecEndResult : Prop :=
  (∀ (p : Params) (c : Nat), c < 2 ^ p.charW → decodeDec p (3 * 2 ^ p.charW + c) = .ok .decEnd) ∧
  ∀ (s : State), s.decInReady = true →
    exec .decEnd s = .next { s with dec :=
      { dPos := 0, dV0 := 0, dV1 := 0, dV2 := 0, dPad2 := false, dErr := false,
        dHoldValid := false, dHoldN := 0, dHoldBytes := 0, dActive := false,
        dQ := s.dec.dQ ++
          (if s.dec.dPos ≠ 0#2 then [0b10#2 ++ 0b00#2 ++ 0#24]
           else if s.dec.dErr then [0b11#2 ++ 0b00#2 ++ 0#24]
           else if s.dec.dHoldValid then
             [0b00#2 ++ s.dec.dHoldN ++ s.dec.dHoldBytes ++ 0x00#8, 0b01#2 ++ 0b00#2 ++ 0#24]
           else [0b01#2 ++ 0b00#2 ++ 0#24]) } }

/-- R78: DEC_CHAR_LAST is DEC_CHAR and then DEC_END on the registers it left, in one step. Both DEC_CHAR
and DEC_CHAR_LAST answer a next state whenever DEC is ready. -/
def Obligations.DecCharLastResult : Prop :=
  (∀ (p : Params) (c : Nat), c < 2 ^ p.charW →
    decodeDec p (2 * 2 ^ p.charW + c) = .ok (.decCharLast c)) ∧
  ∀ (s : State) (c : Nat), s.decInReady = true →
    ∃ t, exec (.decChar c) s = .next t ∧
      exec (.decCharLast c) s = .next { s with dec :=
        { dPos := 0, dV0 := 0, dV1 := 0, dV2 := 0, dPad2 := false, dErr := false,
          dHoldValid := false, dHoldN := 0, dHoldBytes := 0, dActive := false,
          dQ := t.dec.dQ ++
            (if t.dec.dPos ≠ 0#2 then [0b10#2 ++ 0b00#2 ++ 0#24]
             else if t.dec.dErr then [0b11#2 ++ 0b00#2 ++ 0#24]
             else if t.dec.dHoldValid then
               [0b00#2 ++ t.dec.dHoldN ++ t.dec.dHoldBytes ++ 0x00#8, 0b01#2 ++ 0b00#2 ++ 0#24]
             else [0b01#2 ++ 0b00#2 ++ 0#24]) } }

/-- R80: DEC_NOP is accepted only when DEC is ready, and changes nothing. -/
def Obligations.DecNopResult : Prop :=
  (∀ (p : Params) (c : Nat), c < 2 ^ p.charW → decodeDec p (1 * 2 ^ p.charW + c) = .ok .decNop) ∧
  ∀ s : State, s.decInReady = true → exec .decNop s = .next s

/-- R65 and R78: a LAST beat has the outputs, and leaves the state, of the plain beat followed by the
END beat, wherever both of those are accepted. -/
def Obligations.LastBeatIsBeatThenEnd : Prop :=
  (∀ (s t : State) (b : Byte), exec (.encByte b) s = .next t → t.encInReady = true →
    exec (.encByteLast b) s = exec .encEnd t) ∧
  (∀ (s t : State) (c : Nat), exec (.decChar c) s = .next t → t.decInReady = true →
    exec (.decCharLast c) s = exec .decEnd t)

/-- R22 and the table of R107: from a state without an error, DEC_CHAR sets `d_err` exactly on causes
C-a to C-d. -/
def Obligations.CharacterErrorHasExactlyItsCauses : Prop :=
  ∀ (s s' : State) (c : Nat), s.dec.dErr = false → exec (.decChar c) s = .next s' →
    (s'.dec.dErr = true ↔
      s.dec.dHoldValid = true ∨ rev c = .invalid ∨
      ((s.dec.dPos = 0#2 ∨ s.dec.dPos = 1#2) ∧ rev c = .pad) ∨
      (s.dec.dPos = 3#2 ∧ s.dec.dPad2 = true ∧ (rev c).isVal = true))

/-- R22: over any step of the machine, `d_err` is set only by an accepted DEC_CHAR, and cleared only by
an accepted DEC_END or DEC_CHAR_LAST or by RESET. -/
def Obligations.ErrorFlagHasOnlyItsWriters : Prop :=
  ∀ s s' : State, step s = .next s' →
    (s.dec.dErr = false → s'.dec.dErr = true →
      ∃ dw c, s.env.actions.head? = some (.pushD dw) ∧ decodeDec s.cfg dw = .ok (.decChar c)) ∧
    (s.dec.dErr = true → s'.dec.dErr = false →
      s.env.actions.head? = some .reset ∨
      ∃ dw i, s.env.actions.head? = some (.pushD dw) ∧ decodeDec s.cfg dw = .ok i ∧
        (i = .decEnd ∨ ∃ c, i = .decCharLast c))

/-! ### Handshake -/

/-- 10_state.md R19: the status outputs. -/
def Obligations.StatusOutputs : Prop :=
  ∀ s : State,
    (s.encInReady = true ↔ s.enc.eQ.length + 2 ≤ s.cfg.outqDepth) ∧
    (s.decInReady = true ↔ s.dec.dQ.length + 2 ≤ s.cfg.outqDepth) ∧
    (s.encOutValid = true ↔ s.enc.eQ ≠ []) ∧ (s.decOutValid = true ↔ s.dec.dQ ≠ []) ∧
    (∀ w q, s.enc.eQ = w :: q → s.encOutData = w) ∧ (s.enc.eQ = [] → s.encOutData = 0#33) ∧
    (∀ w q, s.dec.dQ = w :: q → s.decOutData = w) ∧ (s.dec.dQ = [] → s.decOutData = 0#28) ∧
    s.encBusy = s.enc.eActive ∧ s.decBusy = s.dec.dActive

/-- R95: while a unit is not ready it accepts no beat of any kind. That the model answers a refusal is
its choice (log 5, after K14). -/
def Obligations.UnreadyUnitAcceptsNoBeat : Prop :=
  ∀ (i : Instr) (s : State),
    (i.isEnc = true → s.encInReady = false → exec i s = .refused .encNotReady) ∧
    (i.isEnc = false → s.decInReady = false → exec i s = .refused .decNotReady)

/-- R96: a pop answers a next state exactly when the queue has a beat; it returns the head, which is the
output data, removes it, and changes no register and nothing of the other unit. That the popped beat is
kept in the host's list is the model's choice (log 3). -/
def Obligations.PopReturnsAndRemovesTheHead : Prop :=
  (∀ (s : State) (rest : List HostAction), s.env.actions = .popE :: rest →
    ((∃ t, step s = .next t) ↔ s.encOutValid = true) ∧
    ∀ (w : EncOutWord) (q : List EncOutWord), s.enc.eQ = w :: q →
      s.encOutData = w ∧
      step s = .next { s with
        enc := { s.enc with eQ := q },
        env := { s.env with actions := rest, encGot := s.env.encGot ++ [w] } }) ∧
  (∀ (s : State) (rest : List HostAction), s.env.actions = .popD :: rest →
    ((∃ t, step s = .next t) ↔ s.decOutValid = true) ∧
    ∀ (w : DecOutWord) (q : List DecOutWord), s.dec.dQ = w :: q →
      s.decOutData = w ∧
      step s = .next { s with
        dec := { s.dec with dQ := q },
        env := { s.env with actions := rest, decGot := s.env.decGot ++ [w] } })

/-- A pop of an empty queue is no step of R98, and no word wider than the DEC port is a word of it (R50,
R59). That the model answers a refusal is its choice (logs 6 and 9). -/
def Obligations.DisabledHostActionsAreRefused : Prop :=
  (∀ (s : State) (rest : List HostAction), s.env.actions = .popE :: rest → s.enc.eQ = [] →
    step s = .refused .encOutEmpty) ∧
  (∀ (s : State) (rest : List HostAction), s.env.actions = .popD :: rest → s.dec.dQ = [] →
    step s = .refused .decOutEmpty) ∧
  (∀ (s : State) (dw : Nat) (rest : List HostAction), s.env.actions = .pushD dw :: rest →
    2 ^ (s.cfg.charW + 2) ≤ dw → step s = .refused .decWordTooWide)

/-- R97, from every state and not only reachable ones: no queue goes over its capacity, and no step but
RESET loses or overwrites an output beat. -/
def Obligations.NoQueueOverflowsOrLosesABeat : Prop :=
  ∀ s s' : State, step s = .next s' →
    (s.I10 → s'.I10) ∧
    (s.env.actions.head? ≠ some .reset →
      (∃ l, s'.encStream = s.encStream ++ l) ∧ ∃ l, s'.decStream = s.decStream ++ l)

/-- 40_encoder.md R72: how many beats each ENC beat pushes. -/
def Obligations.EncBeatsPushTheirCounts : Prop :=
  ∀ (i : Instr) (s s' : State), i.isEnc = true → exec i s = .next s' →
    ∃ l, s'.enc.eQ = s.enc.eQ ++ l ∧
      match i with
      | .encByte _ => l.length = if s.enc.eCnt = 2#2 then 1 else 0
      | .encByteLast _ => l.length = 2
      | .encEnd => l.length = if s.enc.eCnt = 0#2 then 1 else 2
      | _ => l = []

/-- 41_decoder.md R91: how many beats each DEC beat pushes. -/
def Obligations.DecBeatsPushTheirCounts : Prop :=
  ∀ (i : Instr) (s s' : State), i.isEnc = false → exec i s = .next s' →
    ∃ l, s'.dec.dQ = s.dec.dQ ++ l ∧
      match i with
      | .decChar c =>
        l.length = if s.dec.dPos = 3#2 ∧ (rev c).isVal = true ∧ s.dec.dPad2 = false ∧
          s.dec.dErr = false ∧ s.dec.dHoldValid = false then 1 else 0
      | .decEnd =>
        l.length = if s.dec.dPos = 0#2 ∧ s.dec.dErr = false ∧ s.dec.dHoldValid = true then 2 else 1
      | .decCharLast c =>
        l.length = if s.dec.dPos = 3#2 ∧ s.dec.dErr = false ∧ s.dec.dHoldValid = false ∧
          (((rev c).isVal = true ∧ s.dec.dPad2 = false) ∨ rev c = .pad) then 2 else 1
      | _ => l = []

/-- R29 and R30: a beat of one unit leaves the other unit, the parameters and the host's side alone. -/
def Obligations.BeatsWriteOnlyTheirOwnUnit : Prop :=
  ∀ (i : Instr) (s s' : State), exec i s = .next s' →
    s'.cfg = s.cfg ∧ s'.env = s.env ∧
    (i.isEnc = true → s'.dec = s.dec) ∧ (i.isEnc = false → s'.enc = s.enc)

/-- R46: neither unit reads the other. From two states that agree on one unit and the parameters, a beat
of that unit has the same outcome on it. -/
def Obligations.UnitsDoNotReadEachOther : Prop :=
  ∀ (i : Instr) (s t s' : State), s.cfg = t.cfg → exec i s = .next s' →
    (i.isEnc = true → s.enc = t.enc → ∃ t', exec i t = .next t' ∧ t'.enc = s'.enc) ∧
    (i.isEnc = false → s.dec = t.dec → ∃ t', exec i t = .next t' ∧ t'.dec = s'.dec)

/-- R46 and R98: an enabled action on ENC and an enabled action on DEC give the same state in either
order. -/
def Obligations.ActionsOnDifferentUnitsCommute : Prop :=
  ∀ (s s' : State) (a b : HostAction),
    ((∃ ew, a = .pushE ew) ∨ a = .popE) → ((∃ dw, b = .pushD dw) ∨ b = .popD) →
    (runActions s [a, b] = .next s' ↔ runActions s [b, a] = .next s')

/-- R101: while a unit is not ready, no step but a POP of its queue or RESET changes it. -/
def Obligations.StuckUnitWaitsForItsHost : Prop :=
  ∀ s s' : State, step s = .next s' → s.env.actions.head? ≠ some .reset →
    (s.encInReady = false → s.env.actions.head? ≠ some .popE → s'.enc = s.enc) ∧
    (s.decInReady = false → s.env.actions.head? ≠ some .popD → s'.dec = s.dec)

/-- R101: popping a queue as many times as it has beats completes, gives the host the beats in push
order, and makes the unit ready again. The list the host's beats go to is the model's (log 3). -/
def Obligations.DrainingTheQueueMakesTheUnitReady : Prop :=
  ∀ s : State, s.cfg.WF →
    (∃ s', runActions s (List.replicate s.enc.eQ.length .popE) = .next s' ∧ s'.encInReady = true ∧
      s'.env.encGot = s.env.encGot ++ s.enc.eQ ∧ s'.enc = { s.enc with eQ := [] } ∧ s'.dec = s.dec) ∧
    (∃ s', runActions s (List.replicate s.dec.dQ.length .popD) = .next s' ∧ s'.decInReady = true ∧
      s'.env.decGot = s.env.decGot ++ s.dec.dQ ∧ s'.dec = { s.dec with dQ := [] } ∧ s'.enc = s.enc)

/-! ### Invariants -/

/-- R25 at the initial state. -/
def Obligations.InvariantsHoldAtReset : Prop := State.reset.Inv ∧ State.reset.OutWF

/-- R25: every step keeps I1 to I10, from every state that meets them. -/
def Obligations.EveryStepKeepsTheInvariants : Prop :=
  ∀ s s' : State, s.Inv → step s = .next s' → s'.Inv

/-- R25: every state that a run of host actions reaches from the reset state, with any legal parameters,
meets I1 to I10. -/
def Obligations.EveryReachableStateMeetsTheInvariants : Prop :=
  ∀ (p : Params) (acts : List HostAction) (s' : State), p.WF →
    runActions { State.reset with cfg := p } acts = .next s' → s'.Inv

/-- 30_encoding.md R58: every step keeps the queued output words well formed. -/
def Obligations.UnitsPushOnlyWellFormedWords : Prop :=
  ∀ s s' : State, s.Inv → s.OutWF → step s = .next s' → s'.OutWF

/-- B64CORE takes no traps (R110): with `e_cnt` legal (I1) no step faults. -/
def Obligations.NoStepFaultsWithALegalCount : Prop :=
  ∀ (s : State) (f : Fault), s.enc.I1 → step s ≠ .fault f

/-! ### Messages -/

/-- R9, R15 and R17: while a message is open, `e_cnt` is its length modulo 3 and `d_pos` its length modulo
4, and the busy outputs say whether it has begun. Its partial group is not visible (R103): ENC has pushed
the DATA beats of its whole groups of three bytes only, and DEC those of its leading full groups only,
with no END beat from either. -/
def Obligations.OpenMessageKeepsItsLengthModuloTheGroup : Prop :=
  (∀ (s s' : State) (acts : List HostAction) (x : List Byte),
    s.enc.AtStart → .reset ∉ acts → encOpen (encBeatsOf acts) = some x →
    runActions s acts = .next s' →
    s'.enc.eCnt.toNat = x.length % 3 ∧ (s'.encBusy = true ↔ x ≠ []) ∧
    ∃ data, s'.encStream = s.encStream ++ data ∧ data.length = x.length / 3 ∧
      (∀ w ∈ data, encIsEnd w = false) ∧
      (data.map encLanes).flatten = encodeMsg (x.take (3 * (x.length / 3)))) ∧
  (∀ (s s' : State) (acts : List HostAction) (cs : List Nat),
    s.dec.AtStart → .reset ∉ acts → decOpen (decBeatsOf s.cfg acts) = some cs →
    runActions s acts = .next s' →
    s'.dec.dPos.toNat = cs.length % 4 ∧ (s'.decBusy = true ↔ cs ≠ []) ∧
    s'.decStream = s.decStream ++ fullGroupBeats cs ∧ ∀ w ∈ fullGroupBeats cs, decKind w = 0b00#2)

/-- 40_encoder.md R69: ENC computes ENCODE. The beats of one message, whatever pops and DEC actions come
between them, push ceil(n/3) DATA beats and then END, and their characters are ENCODE of its bytes. -/
def Obligations.EncComputesEncode : Prop :=
  ∀ (s s' : State) (acts : List HostAction) (x : List Byte),
    s.enc.AtStart → .reset ∉ acts → encMessage (encBeatsOf acts) = some x →
    runActions s acts = .next s' →
    s'.enc.AtStart ∧
    ∃ data, s'.encStream = s.encStream ++ data ++ [encEndWord] ∧
      data.length = (x.length + 2) / 3 ∧ (∀ w ∈ data, encIsEnd w = false) ∧
      (data.map encLanes).flatten = encodeMsg x

/-- 41_decoder.md R84: DEC computes DECODE. The END beat has the status of DECODE of the message's
characters, and when that is OK the DATA beats carry its bytes. -/
def Obligations.DecComputesDecode : Prop :=
  ∀ (s s' : State) (acts : List HostAction) (cs : List Nat),
    s.dec.AtStart → .reset ∉ acts → decMessage (decBeatsOf s.cfg acts) = some cs →
    runActions s acts = .next s' →
    s'.dec.AtStart ∧
    ∃ data, s'.decStream = s.decStream ++ data ++ [decEndWord (decodeMsg cs).status.code] ∧
      (∀ w ∈ data, decKind w = 0b00#2) ∧
      ∀ bytes, decodeMsg cs = .ok bytes → (data.map decBytes).flatten = bytes

/-- R85: a message that fails pushes the DATA beat, with N = 3, of each leading full group, and then the
END beat with the error status, and nothing else. -/
def Obligations.FailedMessagePushesOnlyItsFullGroups : Prop :=
  ∀ (s s' : State) (acts : List HostAction) (cs : List Nat),
    s.dec.AtStart → .reset ∉ acts → decMessage (decBeatsOf s.cfg acts) = some cs →
    runActions s acts = .next s' → (decodeMsg cs).status ≠ .ok →
    s'.decStream =
      s.decStream ++ fullGroupBeats cs ++ [decEndWord (decodeMsg cs).status.code]

/-- R102: what the host reads from the beats of one message is ENCODE of its bytes, or DECODE of its
characters. -/
def Obligations.HostReadsTheMessageResult : Prop :=
  (∀ (s s' : State) (acts : List HostAction) (x : List Byte),
    s.enc.AtStart → .reset ∉ acts → encMessage (encBeatsOf acts) = some x →
    runActions s acts = .next s' →
    encResults (s'.encStream.drop s.encStream.length) = [encodeMsg x]) ∧
  (∀ (s s' : State) (acts : List HostAction) (cs : List Nat),
    s.dec.AtStart → .reset ∉ acts → decMessage (decBeatsOf s.cfg acts) = some cs →
    runActions s acts = .next s' →
    decResults (s'.decStream.drop s.decStream.length) = [decodeMsg cs])

/-- R101: every message can be delivered. From every state that meets the invariants and is between
messages there are host actions, with pops where they are needed, that carry it to its end. -/
def Obligations.EveryMessageCanBeDelivered : Prop :=
  (∀ (s : State) (x : List Byte), s.Inv → s.enc.AtStart →
    ∃ acts s', .reset ∉ acts ∧ encMessage (encBeatsOf acts) = some x ∧
      runActions s acts = .next s' ∧ s'.enc.eQ = []) ∧
  (∀ (s : State) (cs : List Nat), s.Inv → s.dec.AtStart → (∀ c ∈ cs, c < 2 ^ s.cfg.charW) →
    ∃ acts s', .reset ∉ acts ∧ decMessage (decBeatsOf s.cfg acts) = some cs ∧
      runActions s acts = .next s' ∧ s'.dec.dQ = [])

/-! ### The functions ENCODE and DECODE -/

/-- 40_encoder.md R70: the laws of ENCODE: length, padding count, padding only in the last group, zero
padding bits, alphabet. -/
def Obligations.EncodeObeysItsLaws : Prop :=
  ∀ x : List Byte,
    (encodeMsg x).length = 4 * ((x.length + 2) / 3) ∧
    (encodeMsg x).count 0x3D#8 =
      (if x.length % 3 = 0 then 0 else if x.length % 3 = 1 then 2 else 1) ∧
    (∀ k, (encodeMsg x)[k]? = some 0x3D#8 → (encodeMsg x).length ≤ k + 4) ∧
    zeroPadBits (codes (encodeMsg x)) = true ∧
    ∀ c ∈ encodeMsg x, c = 0x3D#8 ∨ ∃ i : Sextet, c = alpha i

/-- R86: DECODE(ENCODE(x)) = OK(x), and through the hardware: when the host sends the characters of
ENC's DATA beats for x as one DEC message, DEC answers END_OK and the bytes x. -/
def Obligations.DecodeInvertsEncode : Prop :=
  (∀ x : List Byte, decodeMsg (codes (encodeMsg x)) = .ok x) ∧
  (∀ (s t t' : State) (actsE actsD : List HostAction) (x : List Byte) (data : List EncOutWord),
    s.enc.AtStart → .reset ∉ actsE → encMessage (encBeatsOf actsE) = some x →
    runActions s actsE = .next t → t.encStream = s.encStream ++ data ++ [encEndWord] →
    t.dec.AtStart → .reset ∉ actsD →
    decMessage (decBeatsOf t.cfg actsD) = some (codes (data.map encLanes).flatten) →
    runActions t actsD = .next t' →
    ∃ out, t'.decStream = t.decStream ++ out ++ [decEndWord 0b01#2] ∧
      (∀ w ∈ out, decKind w = 0b00#2) ∧ (out.map decBytes).flatten = x)

/-- R87: the dropped padding bits of the last group are not checked. A final group with two PADs decodes
alike for every value that agrees in the two kept bits, and one with one PAD for every value that
agrees in the four kept bits. -/
def Obligations.NonZeroPaddingBitsAreAccepted : Prop :=
  ∀ (l : List Nat) (a b b' c c' : Nat) (v v' : Sextet) (y : List Byte),
    (rev b = .val v → rev b' = .val v' → v.extractLsb' 4 2 = v'.extractLsb' 4 2 →
      decodeMsg (l ++ [a, b, 0x3D, 0x3D]) = .ok y → decodeMsg (l ++ [a, b', 0x3D, 0x3D]) = .ok y) ∧
    (rev c = .val v → rev c' = .val v' → v.extractLsb' 2 4 = v'.extractLsb' 2 4 →
      decodeMsg (l ++ [a, b, c, 0x3D]) = .ok y → decodeMsg (l ++ [a, b, c', 0x3D]) = .ok y)

/-- R88: ENCODE of a decoded message is its canonical form, and is the message itself exactly when its
padding bits are all zero. -/
def Obligations.EncodeOfDecodeIsTheCanonicalForm : Prop :=
  ∀ (s : List Nat) (y : List Byte), decodeMsg s = .ok y →
    codes (encodeMsg y) = canon s ∧ (codes (encodeMsg y) = s ↔ zeroPadBits s = true)

/-! ### The host's side: assembly and text -/

/-- 30_encoding.md R60 and R62: the word of each line, and the operands an assembler refuses. -/
def Obligations.AssemblerLineWords : Prop :=
  ∀ (p : Params) (u : CharUnit),
    (∀ n, n < 256 → assembleLine p u (.encByte n) = .ok [.pushE (BitVec.ofNat 10 n)] ∧
      assembleLine p u (.encByteLast n) = .ok [.pushE (BitVec.ofNat 10 (0x200 + n))]) ∧
    (∀ n, 256 ≤ n → assembleLine p u (.encByte n) = .error .byteOutOfRange ∧
      assembleLine p u (.encByteLast n) = .error .byteOutOfRange) ∧
    (∀ n, n < 2 ^ p.charW → assembleLine p u (.decChar n) = .ok [.pushD n] ∧
      assembleLine p u (.decCharLast n) = .ok [.pushD (2 * 2 ^ p.charW + n)]) ∧
    (∀ n, 2 ^ p.charW ≤ n → assembleLine p u (.decChar n) = .error .charOutOfRange ∧
      assembleLine p u (.decCharLast n) = .error .charOutOfRange) ∧
    assembleLine p u .encEnd = .ok [.pushE 0x300] ∧ assembleLine p u .encNop = .ok [.pushE 0x100] ∧
    assembleLine p u .decEnd = .ok [.pushD (3 * 2 ^ p.charW)] ∧
    assembleLine p u .decNop = .ok [.pushD (2 ^ p.charW)] ∧
    assembleLine p u .popEnc = .ok [.popE] ∧ assembleLine p u .popDec = .ok [.popD] ∧
    assembleLine p u .reset = .ok [.reset]

/-- R61: a pseudo-instruction expands to exactly the actions that offer its beats, in order, and then
END: no pop, no reset and no other word. The words offered decode to those beats, and none goes to the
other unit. What one character of a `dec.msg` string is follows CHAR_UNIT (R133): under utf16Unit a
character above U+FFFF is a surrogate pair, so two beats. Its UTF-16 split is the model's (log 16). -/
def Obligations.PseudoInstructionsExpandToOneMessage : Prop :=
  ∀ (p : Params) (u : CharUnit),
    (∀ bs : List Nat, (∀ n ∈ bs, n < 256) →
      ∃ acts, assembleLine p u (.encMsg bs) = .ok acts ∧
        acts = (bs.map (fun n => Instr.encByte (BitVec.ofNat 8 n)) ++ [Instr.encEnd]).map (pushOf p) ∧
        encBeatsOf acts = bs.map (fun n => .encByte (BitVec.ofNat 8 n)) ++ [.encEnd] ∧
        decBeatsOf p acts = []) ∧
    (∀ cs : List Nat, (∀ c ∈ textCodes u cs, c < 2 ^ p.charW) →
      ∃ acts, assembleLine p u (.decMsg cs) = .ok acts ∧
        acts = ((textCodes u cs).map Instr.decChar ++ [Instr.decEnd]).map (pushOf p) ∧
        decBeatsOf p acts = (textCodes u cs).map .decChar ++ [.decEnd] ∧ encBeatsOf acts = [])

/-- R133: CHAR_UNIT makes no difference to a text of characters up to U+FFFF, and a text with a character
above U+FFFF is an error under both values. The UTF-16 split is the model's (log 16). -/
def Obligations.CharUnitMattersOnlyAboveFFFF : Prop :=
  ∀ text : List Nat,
    ((∀ c ∈ text, c ≤ 0xFFFF) → textCodes .utf16Unit text = textCodes .codePoint text) ∧
    (∀ (u : CharUnit) (c : Nat), c ∈ text → 0xFFFF < c →
      (decodeMsg (textCodes u text)).status ≠ .ok)
end

