-- ==== Sys2Proof/Laws/State.lean ====
section
/-! SUPPORT. What each update of the state, and of a unit, leaves in each field. -/

namespace Sys2Proof.Machine

variable (s : State) (u : Enc) (d : Dec) (e : HostSide) (l : List HostAction)

@[simp] theorem State.withEnc_enc : (s.withEnc u).enc = u := rfl
@[simp] theorem State.withEnc_dec : (s.withEnc u).dec = s.dec := rfl
@[simp] theorem State.withEnc_cfg : (s.withEnc u).cfg = s.cfg := rfl
@[simp] theorem State.withEnc_env : (s.withEnc u).env = s.env := rfl
@[simp] theorem State.withDec_enc : (s.withDec d).enc = s.enc := rfl
@[simp] theorem State.withDec_dec : (s.withDec d).dec = d := rfl
@[simp] theorem State.withDec_cfg : (s.withDec d).cfg = s.cfg := rfl
@[simp] theorem State.withDec_env : (s.withDec d).env = s.env := rfl
@[simp] theorem State.withEnv_enc : (s.withEnv e).enc = s.enc := rfl
@[simp] theorem State.withEnv_dec : (s.withEnv e).dec = s.dec := rfl
@[simp] theorem State.withEnv_cfg : (s.withEnv e).cfg = s.cfg := rfl
@[simp] theorem State.withEnv_env : (s.withEnv e).env = e := rfl
@[simp] theorem State.withActions_enc : (s.withActions l).enc = s.enc := rfl
@[simp] theorem State.withActions_dec : (s.withActions l).dec = s.dec := rfl
@[simp] theorem State.withActions_cfg : (s.withActions l).cfg = s.cfg := rfl
@[simp] theorem State.withActions_actions : (s.withActions l).env.actions = l := rfl
@[simp] theorem State.withActions_encGot : (s.withActions l).env.encGot = s.env.encGot := rfl
@[simp] theorem State.withActions_decGot : (s.withActions l).env.decGot = s.env.decGot := rfl
@[simp] theorem State.withActions_self : s.withActions s.env.actions = s := rfl

variable (w : EncOutWord)

@[simp] theorem Enc.push_eCnt : (u.push w).eCnt = u.eCnt := rfl
@[simp] theorem Enc.push_eB0 : (u.push w).eB0 = u.eB0 := rfl
@[simp] theorem Enc.push_eB1 : (u.push w).eB1 = u.eB1 := rfl
@[simp] theorem Enc.push_eActive : (u.push w).eActive = u.eActive := rfl
@[simp] theorem Enc.push_eQ : (u.push w).eQ = u.eQ ++ [w] := rfl
@[simp] theorem Enc.clear_eCnt : u.clear.eCnt = 0 := rfl
@[simp] theorem Enc.clear_eB0 : u.clear.eB0 = 0 := rfl
@[simp] theorem Enc.clear_eB1 : u.clear.eB1 = 0 := rfl
@[simp] theorem Enc.clear_eActive : u.clear.eActive = false := rfl
@[simp] theorem Enc.clear_eQ : u.clear.eQ = u.eQ := rfl

variable (x : DecOutWord)

@[simp] theorem Dec.push_dPos : (d.push x).dPos = d.dPos := rfl
@[simp] theorem Dec.push_dV0 : (d.push x).dV0 = d.dV0 := rfl
@[simp] theorem Dec.push_dV1 : (d.push x).dV1 = d.dV1 := rfl
@[simp] theorem Dec.push_dV2 : (d.push x).dV2 = d.dV2 := rfl
@[simp] theorem Dec.push_dPad2 : (d.push x).dPad2 = d.dPad2 := rfl
@[simp] theorem Dec.push_dErr : (d.push x).dErr = d.dErr := rfl
@[simp] theorem Dec.push_dHoldValid : (d.push x).dHoldValid = d.dHoldValid := rfl
@[simp] theorem Dec.push_dHoldN : (d.push x).dHoldN = d.dHoldN := rfl
@[simp] theorem Dec.push_dHoldBytes : (d.push x).dHoldBytes = d.dHoldBytes := rfl
@[simp] theorem Dec.push_dActive : (d.push x).dActive = d.dActive := rfl
@[simp] theorem Dec.push_dQ : (d.push x).dQ = d.dQ ++ [x] := rfl
@[simp] theorem Dec.clear_dPos : d.clear.dPos = 0 := rfl
@[simp] theorem Dec.clear_dV0 : d.clear.dV0 = 0 := rfl
@[simp] theorem Dec.clear_dV1 : d.clear.dV1 = 0 := rfl
@[simp] theorem Dec.clear_dV2 : d.clear.dV2 = 0 := rfl
@[simp] theorem Dec.clear_dPad2 : d.clear.dPad2 = false := rfl
@[simp] theorem Dec.clear_dErr : d.clear.dErr = false := rfl
@[simp] theorem Dec.clear_dHoldValid : d.clear.dHoldValid = false := rfl
@[simp] theorem Dec.clear_dHoldN : d.clear.dHoldN = 0 := rfl
@[simp] theorem Dec.clear_dHoldBytes : d.clear.dHoldBytes = 0 := rfl
@[simp] theorem Dec.clear_dActive : d.clear.dActive = false := rfl
@[simp] theorem Dec.clear_dQ : d.clear.dQ = d.dQ := rfl

@[simp] theorem Dec.setErr_dPos : d.setErr.dPos = d.dPos := rfl
@[simp] theorem Dec.setErr_dV0 : d.setErr.dV0 = d.dV0 := rfl
@[simp] theorem Dec.setErr_dV1 : d.setErr.dV1 = d.dV1 := rfl
@[simp] theorem Dec.setErr_dV2 : d.setErr.dV2 = d.dV2 := rfl
@[simp] theorem Dec.setErr_dPad2 : d.setErr.dPad2 = d.dPad2 := rfl
@[simp] theorem Dec.setErr_dErr : d.setErr.dErr = true := rfl
@[simp] theorem Dec.setErr_dHoldValid : d.setErr.dHoldValid = d.dHoldValid := rfl
@[simp] theorem Dec.setErr_dHoldN : d.setErr.dHoldN = d.dHoldN := rfl
@[simp] theorem Dec.setErr_dHoldBytes : d.setErr.dHoldBytes = d.dHoldBytes := rfl
@[simp] theorem Dec.setErr_dActive : d.setErr.dActive = d.dActive := rfl
@[simp] theorem Dec.setErr_dQ : d.setErr.dQ = d.dQ := rfl

@[simp] theorem Dec.dropHold_dPos : d.dropHold.dPos = d.dPos := rfl
@[simp] theorem Dec.dropHold_dV0 : d.dropHold.dV0 = d.dV0 := rfl
@[simp] theorem Dec.dropHold_dV1 : d.dropHold.dV1 = d.dV1 := rfl
@[simp] theorem Dec.dropHold_dV2 : d.dropHold.dV2 = d.dV2 := rfl
@[simp] theorem Dec.dropHold_dPad2 : d.dropHold.dPad2 = d.dPad2 := rfl
@[simp] theorem Dec.dropHold_dErr : d.dropHold.dErr = d.dErr := rfl
@[simp] theorem Dec.dropHold_dHoldValid : d.dropHold.dHoldValid = false := rfl
@[simp] theorem Dec.dropHold_dHoldN : d.dropHold.dHoldN = 0 := rfl
@[simp] theorem Dec.dropHold_dHoldBytes : d.dropHold.dHoldBytes = 0 := rfl
@[simp] theorem Dec.dropHold_dActive : d.dropHold.dActive = d.dActive := rfl
@[simp] theorem Dec.dropHold_dQ : d.dropHold.dQ = d.dQ := rfl

variable (n : BitVec 2) (b0 b1 : Byte)

@[simp] theorem Dec.hold_dPos : (d.hold n b0 b1).dPos = d.dPos := rfl
@[simp] theorem Dec.hold_dV0 : (d.hold n b0 b1).dV0 = d.dV0 := rfl
@[simp] theorem Dec.hold_dV1 : (d.hold n b0 b1).dV1 = d.dV1 := rfl
@[simp] theorem Dec.hold_dV2 : (d.hold n b0 b1).dV2 = d.dV2 := rfl
@[simp] theorem Dec.hold_dPad2 : (d.hold n b0 b1).dPad2 = d.dPad2 := rfl
@[simp] theorem Dec.hold_dErr : (d.hold n b0 b1).dErr = d.dErr := rfl
@[simp] theorem Dec.hold_dHoldValid : (d.hold n b0 b1).dHoldValid = true := rfl
@[simp] theorem Dec.hold_dHoldN : (d.hold n b0 b1).dHoldN = n := rfl
@[simp] theorem Dec.hold_dHoldBytes : (d.hold n b0 b1).dHoldBytes = b0 ++ b1 := rfl
@[simp] theorem Dec.hold_dActive : (d.hold n b0 b1).dActive = d.dActive := rfl
@[simp] theorem Dec.hold_dQ : (d.hold n b0 b1).dQ = d.dQ := rfl

@[simp] theorem Dec.clearGroup_dPos : d.clearGroup.dPos = d.dPos := rfl
@[simp] theorem Dec.clearGroup_dV0 : d.clearGroup.dV0 = 0 := rfl
@[simp] theorem Dec.clearGroup_dV1 : d.clearGroup.dV1 = 0 := rfl
@[simp] theorem Dec.clearGroup_dV2 : d.clearGroup.dV2 = 0 := rfl
@[simp] theorem Dec.clearGroup_dPad2 : d.clearGroup.dPad2 = false := rfl
@[simp] theorem Dec.clearGroup_dErr : d.clearGroup.dErr = d.dErr := rfl
@[simp] theorem Dec.clearGroup_dHoldValid : d.clearGroup.dHoldValid = d.dHoldValid := rfl
@[simp] theorem Dec.clearGroup_dHoldN : d.clearGroup.dHoldN = d.dHoldN := rfl
@[simp] theorem Dec.clearGroup_dHoldBytes : d.clearGroup.dHoldBytes = d.dHoldBytes := rfl
@[simp] theorem Dec.clearGroup_dActive : d.clearGroup.dActive = d.dActive := rfl
@[simp] theorem Dec.clearGroup_dQ : d.clearGroup.dQ = d.dQ := rfl

@[simp] theorem resetBlock_enc : (resetBlock s).enc = Enc.reset := rfl
@[simp] theorem resetBlock_dec : (resetBlock s).dec = Dec.reset := rfl
@[simp] theorem resetBlock_cfg : (resetBlock s).cfg = s.cfg := rfl
@[simp] theorem resetBlock_env : (resetBlock s).env = s.env := rfl

end Sys2Proof.Machine
end

