-- ==== Sys2Proof/Laws/Ops.lean ====
section
/-! SUPPORT. What each shared operation can do, said once: its outcome and the state it leaves. -/

namespace Sys2Proof.Machine

/-- A queue has room exactly when two entries are free. -/
theorem hasRoom_iff (p : Params) (n : Nat) : hasRoom p n = true ↔ n + 2 ≤ p.outqDepth := by
  simp only [hasRoom, decide_eq_true_eq]
  omega

/-- Accepting an ENC beat: a next state comes from the unit's rule, and only while ENC is ready. -/
theorem acceptEnc_next (s s' : State) (rule : Enc → Except Fault Enc) :
    acceptEnc s rule = .next s' ↔
      s.encInReady = true ∧ ∃ u, rule s.enc = .ok u ∧ s' = s.withEnc u := by
  unfold acceptEnc
  split
  · rename_i h
    cases hr : rule s.enc with
    | ok u => simp [h, eq_comm]
    | error f => simp
  · rename_i h
    simp [h]

/-- Accepting a DEC beat: a next state comes from the unit's rule, and only while DEC is ready. -/
theorem acceptDec_next (s s' : State) (rule : Dec → Dec) :
    acceptDec s rule = .next s' ↔ s.decInReady = true ∧ s' = s.withDec (rule s.dec) := by
  unfold acceptDec
  split <;> rename_i h <;> simp [h, eq_comm]

/-- POP_E: a next state has the head of the queue moved to the host. -/
theorem popEnc_next (s s' : State) :
    popEnc s = .next s' ↔
      ∃ w q, s.enc.eQ = w :: q ∧
        s' = (s.withEnc { s.enc with eQ := q }).withEnv
          { s.env with encGot := s.env.encGot ++ [w] } := by
  unfold popEnc
  split <;> rename_i h <;> simp [h, eq_comm]

/-- POP_D: a next state has the head of the queue moved to the host. -/
theorem popDec_next (s s' : State) :
    popDec s = .next s' ↔
      ∃ w q, s.dec.dQ = w :: q ∧
        s' = (s.withDec { s.dec with dQ := q }).withEnv
          { s.env with decGot := s.env.decGot ++ [w] } := by
  unfold popDec
  split <;> rename_i h <;> simp [h, eq_comm]

/-- What a step that answers a next state did: nothing, or the host's first pending action. -/
theorem step_next_cases (s s' : State) (h : step s = .next s') :
    (s.env.actions = [] ∧ s' = s) ∨
      ∃ a rest, s.env.actions = a :: rest ∧ perform a (s.withActions rest) = .next s' := by
  unfold step takeAction at h
  cases ha : s.env.actions with
  | nil => rw [ha] at h; simp only [Host.Outcome.next.injEq] at h; exact .inl ⟨rfl, h.symm⟩
  | cons a rest => rw [ha] at h; exact .inr ⟨a, rest, rfl, h⟩

/-- What an action that answers a next state did. -/
theorem perform_next_cases (a : HostAction) (s s' : State) (h : perform a s = .next s') :
    (∃ ew, a = .pushE ew ∧ exec (decodeEnc ew) s = .next s') ∨
    (∃ dw i, a = .pushD dw ∧ decodeDec s.cfg dw = .ok i ∧ exec i s = .next s') ∨
    (a = .popE ∧ popEnc s = .next s') ∨
    (a = .popD ∧ popDec s = .next s') ∨
    (a = .reset ∧ s' = resetBlock s) := by
  cases a with
  | pushE ew => exact .inl ⟨ew, rfl, h⟩
  | pushD dw =>
    unfold perform at h
    cases hd : decodeDec s.cfg dw with
    | ok i => simp only [hd] at h; exact .inr (.inl ⟨dw, i, rfl, hd, h⟩)
    | error e => cases e; simp [hd] at h
  | popE => exact .inr (.inr (.inl ⟨rfl, h⟩))
  | popD => exact .inr (.inr (.inr (.inl ⟨rfl, h⟩)))
  | reset =>
    simp only [perform, Host.Outcome.next.injEq] at h
    exact .inr (.inr (.inr (.inr ⟨rfl, h.symm⟩)))

end Sys2Proof.Machine
end

