-- ==== Sys2Proof/Laws/PerInstr.lean ====
section
/-! SUPPORT. A family of facts about every beat as syntax: its encoded word fits its port (30_encoding.md R59). -/

namespace Sys2Proof.Laws

/-- The word of a well-formed beat has no bit beyond its port's width. -/
def EncodedWordFits.Statement (i : Instr) : Prop :=
  ∀ p : Params, i.wf p = true → (encode p i).value < 2 ^ portWidth p i

/-- An ENC word fits its port. -/
theorem encWord_fits (p : Params) (i : Instr) (h : i.isEnc = true) (w : EncInWord) :
    (PortWord.enc w).value < 2 ^ portWidth p i := by
  simpa [PortWord.value, portWidth, h] using w.isLt

/-- A DEC word whose character fits CHAR_W bits fits its port. -/
theorem decWord_fits (p : Params) (i : Instr) (h : i.isEnc = false) (a b : Bool) (c : Nat)
    (hc : c < 2 ^ p.charW) : (PortWord.dec (decWord p a b c)).value < 2 ^ portWidth p i := by
  simp only [PortWord.value, portWidth, h, decWord, Bool.false_eq_true, if_false, pow_succ]
  cases a <;> cases b <;> simp only [Bool.toNat_true, Bool.toNat_false] <;> omega

theorem EncodedWordFits.encByte (b : Byte) : EncodedWordFits.Statement (.encByte b) :=
  fun p _ => encWord_fits p (.encByte b) rfl _

theorem EncodedWordFits.encByteLast (b : Byte) : EncodedWordFits.Statement (.encByteLast b) :=
  fun p _ => encWord_fits p (.encByteLast b) rfl _

theorem EncodedWordFits.encEnd : EncodedWordFits.Statement .encEnd :=
  fun p _ => encWord_fits p .encEnd rfl _

theorem EncodedWordFits.encNop : EncodedWordFits.Statement .encNop :=
  fun p _ => encWord_fits p .encNop rfl _

theorem EncodedWordFits.decChar (c : Nat) : EncodedWordFits.Statement (.decChar c) :=
  fun p h => decWord_fits p (.decChar c) rfl _ _ c (of_decide_eq_true h)

theorem EncodedWordFits.decCharLast (c : Nat) : EncodedWordFits.Statement (.decCharLast c) :=
  fun p h => decWord_fits p (.decCharLast c) rfl _ _ c (of_decide_eq_true h)

theorem EncodedWordFits.decEnd : EncodedWordFits.Statement .decEnd :=
  fun p _ => decWord_fits p .decEnd rfl _ _ 0 (Nat.two_pow_pos _)

theorem EncodedWordFits.decNop : EncodedWordFits.Statement .decNop :=
  fun p _ => decWord_fits p .decNop rfl _ _ 0 (Nat.two_pow_pos _)

end Sys2Proof.Laws
end

