-- ==== Sys2Proof/Laws/Units.lean ====
section
/-! SUPPORT. What each unit's register transfer can do, said once. -/

namespace Sys2Proof.Machine

/-! ### ENC -/

/-- R64 by the value of `e_cnt`; 3 has no case. -/
theorem encByteRule_ok (b : Byte) (u v : Enc) :
    encByteRule b u = .ok v ↔
      (u.eCnt = 0#2 ∧ v = { u with eActive := true, eB0 := b, eCnt := 1 }) ∨
      (u.eCnt = 1#2 ∧ v = { u with eActive := true, eB1 := b, eCnt := 2 }) ∨
      (u.eCnt = 2#2 ∧ v = { u with
        eActive := true, eB0 := 0, eB1 := 0, eCnt := 0,
        eQ := u.eQ ++ [encDataWord (pack (groupWord u.eB0 u.eB1 b) 0)] }) := by
  unfold encByteRule
  split
  · rename_i h; simp [h, eq_comm]
  split
  · rename_i h; simp [h, eq_comm]
  split
  · rename_i h; simp [h, Enc.push, eq_comm]
  · rename_i h0 h1 h2; simp [h0, h1, h2]

/-- R66's padded group by the value of `e_cnt`. -/
theorem encFlush_ok (u v : Enc) :
    encFlush u = .ok v ↔
      (u.eCnt = 0#2 ∧ v = u) ∨
      (u.eCnt = 1#2 ∧ v = u.push (encDataWord (pack (groupWord u.eB0 0 0) 2))) ∨
      (u.eCnt = 2#2 ∧ v = u.push (encDataWord (pack (groupWord u.eB0 u.eB1 0) 1))) := by
  unfold encFlush
  split
  · rename_i h; simp [h, eq_comm]
  split
  · rename_i h; simp [h, eq_comm]
  split
  · rename_i h; simp [h, eq_comm]
  · rename_i h0 h1 h2; simp [h0, h1, h2]

/-- R66 is the padded group, then the END beat, then the cleared registers. -/
theorem encEndRule_ok (u v : Enc) :
    encEndRule u = .ok v ↔ ∃ t, encFlush u = .ok t ∧ v = (t.push encEndWord).clear := by
  unfold encEndRule
  cases encFlush u <;> simp [eq_comm]

/-- R65 is R64, then R66 on what it left. -/
theorem encByteLastRule_ok (b : Byte) (u v : Enc) :
    encByteLastRule b u = .ok v ↔ ∃ t, encByteRule b u = .ok t ∧ encEndRule t = .ok v := by
  unfold encByteLastRule
  cases encByteRule b u <;> simp

/-! ### DEC -/

variable (k : CharClass) (c : Nat) (d : Dec)

/-! The counting part of R77, field by field. -/

@[simp] theorem decAdvance_dPos : (decAdvance d).dPos = d.dPos + 1 := rfl
@[simp] theorem decAdvance_dActive : (decAdvance d).dActive = true := rfl

@[simp] theorem decAdvance_dErr : (decAdvance d).dErr = d.dErr := by
  unfold decAdvance; dsimp only; split_ifs <;> rfl

@[simp] theorem decAdvance_dHoldValid : (decAdvance d).dHoldValid = d.dHoldValid := by
  unfold decAdvance; dsimp only; split_ifs <;> rfl

@[simp] theorem decAdvance_dHoldN : (decAdvance d).dHoldN = d.dHoldN := by
  unfold decAdvance; dsimp only; split_ifs <;> rfl

@[simp] theorem decAdvance_dHoldBytes : (decAdvance d).dHoldBytes = d.dHoldBytes := by
  unfold decAdvance; dsimp only; split_ifs <;> rfl

@[simp] theorem decAdvance_dQ : (decAdvance d).dQ = d.dQ := by
  unfold decAdvance; dsimp only; split_ifs <;> rfl

@[simp] theorem decAdvance_dV0 : (decAdvance d).dV0 = if d.dPos = 3#2 then 0 else d.dV0 := by
  unfold decAdvance; dsimp only; split_ifs <;> rfl

@[simp] theorem decAdvance_dV1 : (decAdvance d).dV1 = if d.dPos = 3#2 then 0 else d.dV1 := by
  unfold decAdvance; dsimp only; split_ifs <;> rfl

@[simp] theorem decAdvance_dV2 : (decAdvance d).dV2 = if d.dPos = 3#2 then 0 else d.dV2 := by
  unfold decAdvance; dsimp only; split_ifs <;> rfl

@[simp] theorem decAdvance_dPad2 :
    (decAdvance d).dPad2 = if d.dPos = 3#2 then false else d.dPad2 := by
  unfold decAdvance; dsimp only; split_ifs <;> rfl

/-! The validating part of R77, by its three guards. -/

theorem decCharRule_of_err (h : d.dErr = true) : decCharRule c d = decAdvance d := by
  simp [decCharRule, decValidate, h]

theorem decCharRule_of_held (h : d.dErr = false) (hv : d.dHoldValid = true) :
    decCharRule c d = decAdvance d.setErr.dropHold := by
  simp [decCharRule, decValidate, h, hv]

theorem decCharRule_of_clean (h : d.dErr = false) (hv : d.dHoldValid = false) :
    decCharRule c d = decAdvance (decPlace (rev c) d) := by
  simp [decCharRule, decValidate, h, hv]

/-- The four positions of `d_pos`. -/
theorem dPos_cases (p : BitVec 2) : p = 0#2 ∨ p = 1#2 ∨ p = 2#2 ∨ p = 3#2 := by
  revert p; decide

/-- The `case d_pos of` of R77: what a class does at each position. -/
theorem decPlace_cases :
    (d.dPos = 0#2 ∧ ((∃ v, k = .val v ∧ decPlace k d = { d with dV0 := v }) ∨
      ((k = .pad ∨ k = .invalid) ∧ decPlace k d = d.setErr))) ∨
    (d.dPos = 1#2 ∧ ((∃ v, k = .val v ∧ decPlace k d = { d with dV1 := v }) ∨
      ((k = .pad ∨ k = .invalid) ∧ decPlace k d = d.setErr))) ∨
    (d.dPos = 2#2 ∧ ((∃ v, k = .val v ∧ decPlace k d = { d with dV2 := v }) ∨
      (k = .pad ∧ decPlace k d = { d with dPad2 := true }) ∨
      (k = .invalid ∧ decPlace k d = d.setErr))) ∨
    (d.dPos = 3#2 ∧
      ((∃ v b0 b1 b2, k = .val v ∧ d.dPad2 = false ∧ unpack d.dV0 d.dV1 d.dV2 v = (b0, b1, b2) ∧
          decPlace k d = d.push (decDataWord 3 b0 b1 b2)) ∨
        (∃ v, k = .val v ∧ d.dPad2 = true ∧ decPlace k d = d.setErr) ∨
        (∃ b0 b1 b2, k = .pad ∧ d.dPad2 = true ∧ unpack d.dV0 d.dV1 d.dV2 0 = (b0, b1, b2) ∧
          decPlace k d = d.hold 1 b0 0) ∨
        (∃ b0 b1 b2, k = .pad ∧ d.dPad2 = false ∧ unpack d.dV0 d.dV1 d.dV2 0 = (b0, b1, b2) ∧
          decPlace k d = d.hold 2 b0 b1) ∨
        (k = .invalid ∧ decPlace k d = d.setErr))) := by
  rcases dPos_cases d.dPos with hp | hp | hp | hp <;> cases k <;>
    simp [decPlace, decAt0, decAt1, decAt2, decAt3, hp]
  all_goals cases d.dPad2 <;> simp [unpack]

/-- R79 pushes the held group when the status is OK, then the END beat. -/
theorem decEndRule_dQ :
    (decEndRule d).dQ = (decFlush d).dQ ++ [decEndWord d.endStatus.code] := rfl

/-- R79's pushes: the END beat alone, or the held group before it. -/
theorem decFlush_cases :
    decFlush d = d ∨
      (d.endStatus = .ok ∧ d.dHoldValid = true ∧
        decFlush d = d.push (decDataWord d.dHoldN (d.dHoldBytes.extractLsb' 8 8)
          (d.dHoldBytes.extractLsb' 0 8) 0)) := by
  unfold decFlush
  split
  · rename_i h; exact .inr ⟨h.1, h.2, rfl⟩
  · exact .inl rfl

/-- The status is OK exactly between groups and without an error (R79). -/
theorem endStatus_ok : d.endStatus = .ok ↔ d.dPos = 0#2 ∧ d.dErr = false := by
  unfold Dec.endStatus
  split_ifs <;> simp_all

/-- R79 leaves every register at its reset value; only the queue is not (R89). -/
theorem decEndRule_eq : decEndRule d = { Dec.reset with dQ := (decEndRule d).dQ } := rfl

end Sys2Proof.Machine
end

