-- ==== Sys2Proof/Laws/Words.lean ====
section
/-! SUPPORT. The fields of the output words the units build (30_encoding.md R55 to R57). -/

namespace Sys2Proof.Machine

variable (f : BitVec 32) (kind n : BitVec 2) (b0 b1 b2 : Byte)

@[simp] theorem encIsEnd_encDataWord : encIsEnd (encDataWord f) = false := by
  unfold encIsEnd encDataWord
  rw [BitVec.getLsbD_append, if_neg (by omega)]
  decide

@[simp] theorem encIsEnd_encEndWord : encIsEnd encEndWord = true := by decide

@[simp] theorem encLanes_encDataWord : encLanes (encDataWord f) = charLanes f := by
  have h : (encDataWord f).extractLsb' 0 32 = f := by
    apply BitVec.eq_of_getLsbD_eq
    intro i hi
    simp only [encDataWord, BitVec.getLsbD_extractLsb', BitVec.getLsbD_append, hi, Nat.zero_add,
      decide_true, Bool.true_and, if_true]
  rw [encLanes, h]

/-- The lanes of a character field put together from four codes. -/
@[simp] theorem charLanes_append (c0 c1 c2 c3 : Byte) :
    charLanes (c0 ++ c1 ++ c2 ++ c3) = [c0, c1, c2, c3] := by
  have e : ∀ {x y : Byte}, (∀ i < 8, x.getLsbD i = y.getLsbD i) → x = y :=
    fun h => BitVec.eq_of_getLsbD_eq h
  simp only [charLanes, List.cons.injEq, and_true]
  refine ⟨e ?_, e ?_, e ?_, e ?_⟩ <;> intro i hi <;>
    simp only [BitVec.getLsbD_extractLsb', BitVec.getLsbD_append, hi, decide_true, Bool.true_and]
  · rw [if_neg (by omega), if_neg (by omega), if_neg (by omega)]; congr 1; omega
  · rw [if_neg (by omega), if_neg (by omega), if_pos (by omega)]; congr 1; omega
  · rw [if_neg (by omega), if_pos (by omega)]; congr 1; omega
  · rw [if_pos (by omega)]; congr 1; omega

@[simp] theorem decKind_decOutWord : decKind (decOutWord kind n b0 b1 b2) = kind := by
  apply BitVec.eq_of_getLsbD_eq
  intro i hi
  simp only [decKind, decOutWord, BitVec.getLsbD_extractLsb', BitVec.getLsbD_append, hi,
    decide_true, Bool.true_and]
  rw [if_neg (by omega), if_neg (by omega), if_neg (by omega), if_neg (by omega)]
  congr 1; omega

@[simp] theorem decCount_decOutWord : decCount (decOutWord kind n b0 b1 b2) = n := by
  apply BitVec.eq_of_getLsbD_eq
  intro i hi
  simp only [decCount, decOutWord, BitVec.getLsbD_extractLsb', BitVec.getLsbD_append, hi,
    decide_true, Bool.true_and]
  rw [if_neg (by omega), if_neg (by omega), if_neg (by omega), if_pos (by omega)]
  congr 1; omega

@[simp] theorem decLanes_decOutWord : decLanes (decOutWord kind n b0 b1 b2) = [b0, b1, b2] := by
  have e : ∀ {x y : Byte}, (∀ i < 8, x.getLsbD i = y.getLsbD i) → x = y :=
    fun h => BitVec.eq_of_getLsbD_eq h
  simp only [decLanes, decOutWord, List.cons.injEq, and_true]
  refine ⟨e ?_, e ?_, e ?_⟩ <;> intro i hi <;>
    simp only [BitVec.getLsbD_extractLsb', BitVec.getLsbD_append, hi, decide_true, Bool.true_and]
  · rw [if_neg (by omega), if_neg (by omega), if_pos (by omega)]; congr 1; omega
  · rw [if_neg (by omega), if_pos (by omega)]; congr 1; omega
  · rw [if_pos (by omega)]; congr 1; omega

/-- The bytes a DEC beat carries are the first N lanes. -/
@[simp] theorem decBytes_decOutWord :
    decBytes (decOutWord kind n b0 b1 b2) = [b0, b1, b2].take n.toNat := by
  simp [decBytes]

/-- A DATA beat reports no status, and an END beat reports its own (R57). -/
@[simp] theorem ofCode_data : DecStatus.ofCode 0b00#2 = none := by decide

@[simp] theorem ofCode_code (st : DecStatus) : DecStatus.ofCode st.code = some st := by
  cases st <;> decide

end Sys2Proof.Machine
end

