-- ==== Sys2Proof/Tests/Slice0.lean ====
section
/-! SUPPORT. Small tests: ill-formed terms refused, words written out from the spec's encodings, one step of each beat (expected values from 95_test_vectors.md and the worked examples of the rules), and for each statement with hypotheses a state that meets them. -/

namespace Sys2Proof.Tests

open Sys2Proof.Machine

/-! ### WellFormed refuses what is ill formed -/

theorem test_wf_refuses_narrow_charW : ¬ (Params.WF { charW := 7, outqDepth := 2 }) := by decide
theorem test_wf_refuses_short_queue : ¬ (Params.WF { charW := 21, outqDepth := 1 }) := by decide
theorem test_wf_accepts_standard : Params.standard.WF := by decide
theorem test_wf_refuses_wide_char : Instr.wf Params.standard (.decChar 0x200000) = false := by decide
theorem test_wf_refuses_wide_last_char :
    Instr.wf Params.standard (.decCharLast 0x200000) = false := by decide
theorem test_wf_accepts_widest_char : Instr.wf Params.standard (.decChar 0x1FFFFF) = true := by decide
theorem test_wf_refuses_wide_word : PortWord.wf Params.standard (.dec 0x800000) = false := by decide
theorem test_decode_refuses_wide_word :
    decodeTableWord 24 0x800000 = none ∧ decodeTableWord 16 0x400 = none := by decide

/-! ### Decoding: the words of R48, R50 and R52, bit by bit -/

theorem test_decode_encByte : decodeEnc 0b00_01100001#10 = .encByte 0x61 := by decide
theorem test_decode_encByteLast : decodeEnc 0b10_01100001#10 = .encByteLast 0x61 := by decide
theorem test_decode_encEnd : decodeEnc 0b11_11111111#10 = .encEnd := by decide
theorem test_decode_encNop : decodeEnc 0b01_10101011#10 = .encNop := by decide
theorem test_decode_decChar :
    decodeTableWord 24 0b00_100001111111111111111 = some (.decChar 0x10FFFF) := by decide
theorem test_decode_decCharLast :
    decodeTableWord 24 0b10_000000000000000111101 = some (.decCharLast 0x3D) := by decide
theorem test_decode_decEnd :
    decodeTableWord 24 0b11_111111111111111111111 = some .decEnd := by decide
theorem test_decode_decNop :
    decodeTableWord 24 0b01_000000000000001000001 = some .decNop := by decide
/-- At CHAR_W = 8 the flags are bits 9 and 8. -/
theorem test_decode_narrow_port :
    decode { charW := 8, outqDepth := 2 } (.dec 0b10_00111101) = .ok (.decCharLast 0x3D) := by rfl
theorem test_encode_words :
    encode Params.standard (.encByteLast 0x61) = .enc 0x261 ∧
    encode Params.standard (.decCharLast 0x3D) = .dec 0x40003D ∧
    encode Params.standard .decEnd = .dec 0x600000 ∧ encode Params.standard .encNop = .enc 0x100 := by
  decide
/-- The host's first instruction after reset: the step runs it. -/
theorem test_step_runs_first_word :
    step (State.reset.withFetchWord 16 0x261) = exec (.encByteLast 0x61) State.reset ∧
    step (State.reset.withFetchWord 24 0x59) = exec (.decChar 0x59) State.reset := ⟨rfl, rfl⟩

/-! ### ROMs (95_test_vectors.md section 2.1) -/

theorem test_alpha_range_ends :
    alpha 0 = 0x41 ∧ alpha 25 = 0x5A ∧ alpha 26 = 0x61 ∧ alpha 51 = 0x7A ∧ alpha 52 = 0x30 ∧
    alpha 61 = 0x39 ∧ alpha 62 = 0x2B ∧ alpha 63 = 0x2F := by decide
theorem test_rev_neighbours_are_invalid :
    [0x00, 0x09, 0x20, 0x2A, 0x2C, 0x2E, 0x3A, 0x3C, 0x3E, 0x40, 0x5B, 0x60, 0x7B, 0x7F, 0x80,
      0xA9, 0xFF, 0x100, 0x141, 0xD800, 0x10FFFF, 0x1FFFFF].all (rev · == .invalid) = true := by
  decide
theorem test_rev_range_ends :
    rev 0x2B = .val 62 ∧ rev 0x2F = .val 63 ∧ rev 0x30 = .val 52 ∧ rev 0x39 = .val 61 ∧
    rev 0x3D = .pad ∧ rev 0x41 = .val 0 ∧ rev 0x5A = .val 25 ∧ rev 0x61 = .val 26 ∧
    rev 0x7A = .val 51 := by decide
/-- 0x141 has the low seven bits of `A`; the range check must not let it through (R35). -/
theorem test_revByRom_no_alias : revByRom 0x141 = .invalid ∧ revByRom 0x41 = .val 0 := by decide

/-! ### One step of each beat -/

/-- Reset, but with these ENC registers. -/
def encAt (cnt : BitVec 2) (b0 b1 : Byte) (q : List EncOutWord) : State :=
  State.reset.withEnc { eCnt := cnt, eB0 := b0, eB1 := b1, eActive := cnt != 0, eQ := q }

/-- Reset, but with these DEC group registers. -/
def decAt (pos : BitVec 2) (v0 v1 v2 : Sextet) (pad2 err : Bool) : State :=
  State.reset.withDec
    { Dec.reset with
      dPos := pos, dV0 := v0, dV1 := v1, dV2 := v2, dPad2 := pad2, dErr := err,
      dActive := true }

/-- Reset, but with n held bytes in DEC. -/
def decHolding (n : BitVec 2) (bytes : BitVec 16) : State :=
  State.reset.withDec
    { Dec.reset with dHoldValid := true, dHoldN := n, dHoldBytes := bytes, dActive := true }

/-- The next state of an outcome. -/
def nextOf : Host.Outcome State Fault Refusal → Option State
  | .next s => some s
  | .fault _ => none
  | .refused _ => none

/-- The queue `e_q` of the next state. -/
def encOut (o : Host.Outcome State Fault Refusal) : Option (List EncOutWord) :=
  (nextOf o).map (·.enc.eQ)

/-- The queue `d_q` of the next state. -/
def decOut (o : Host.Outcome State Fault Refusal) : Option (List DecOutWord) :=
  (nextOf o).map (·.dec.dQ)

/-- R64's example, third beat: "Man" gives TWFu. -/
theorem test_encByte_completes_group :
    encOut (exec (.encByte 0x6E) (encAt 2 0x4D 0x61 [])) = some [0x0_5457_4675] := by decide
/-- P2 line 4: the first byte is held. -/
theorem test_encByte_holds_first :
    (nextOf (exec (.encByte 0xFB) (encAt 0 0 0 []))).map (fun s => (s.enc.eCnt, s.enc.eB0, s.encBusy)) =
      some (1, 0xFB, true) := by decide
/-- R65's example: "a" gives YQ== and END. -/
theorem test_encByteLast_pads :
    encOut (exec (.encByteLast 0x61) State.reset) = some [0x0_5951_3D3D, 0x1_0000_0000] := by decide
/-- With two bytes held no padded beat is pushed (95_test_vectors.md section 2.2). -/
theorem test_encByteLast_full :
    encOut (exec (.encByteLast 0x6E) (encAt 2 0x4D 0x61 [])) =
      some [0x0_5457_4675, 0x1_0000_0000] := by decide
/-- P2 line 7: FB FF gives +/8= and END. -/
theorem test_encEnd_two_bytes :
    encOut (exec .encEnd (encAt 2 0xFB 0xFF [])) = some [0x0_2B2F_383D, 0x1_0000_0000] := by decide
theorem test_encEnd_empty_message :
    nextOf (exec .encEnd State.reset) = some (encAt 0 0 0 [0x1_0000_0000]) := by decide
theorem test_encNop_changes_nothing :
    nextOf (exec .encNop (encAt 1 0x61 0 [])) = some (encAt 1 0x61 0 []) := by decide
/-- R77's example, fourth beat: QUJD gives 41 42 43. -/
theorem test_decChar_full_group :
    decOut (exec (.decChar 0x44) (decAt 3 16 20 9 false false)) = some [0x341_4243] := by decide
/-- P3 line 10: YWF= holds 61 61, and the dropped bits are not looked at. -/
theorem test_decChar_holds_padded_group :
    (nextOf (exec (.decChar 0x3D) (decAt 3 24 22 5 false false))).map
      (fun s => (s.dec.dHoldValid, s.dec.dHoldN, s.dec.dHoldBytes, s.dec.dPos, s.dec.dV2)) =
      some (true, 2, 0x6161, 0, 0) := by decide
/-- P3 lines 10 and 11 in one beat. -/
theorem test_decCharLast_padded :
    decOut (exec (.decCharLast 0x3D) (decAt 3 24 22 5 false false)) =
      some [0x261_6100, 0x400_0000] := by decide
theorem test_decCharLast_length_error :
    nextOf (exec (.decCharLast 0x59) State.reset) =
      some (State.reset.withDec { Dec.reset with dQ := [0x800_0000] }) := by decide
/-- The length error has priority over the character error (R108). -/
theorem test_decEnd_priority :
    decOut (exec .decEnd (decAt 1 0 0 0 false true)) = some [0x800_0000] := by decide
theorem test_decEnd_pushes_held_group :
    decOut (exec .decEnd (decHolding 1 0x6100)) = some [0x161_0000, 0x400_0000] := by decide
theorem test_decNop_changes_nothing :
    nextOf (exec .decNop (decAt 2 24 16 0 false false)) = some (decAt 2 24 16 0 false false) := by
  decide
/-- C-d: a character after a padded group (P4 line 6). -/
theorem test_decChar_after_held_group :
    nextOf (exec (.decChar 0x59) (decHolding 1 0x6100)) = some (decAt 1 0 0 0 false true) := by decide
/-- Not ready with one beat in a queue of two (95_test_vectors.md section 2.8). -/
theorem test_full_queue_refuses :
    exec .encNop (encAt 0 0 0 [encEndWord]) = .refused .encNotReady ∧
    exec .decNop (State.reset.withDec { Dec.reset with dQ := [decEndWord 1] }) =
      .refused .decNotReady := ⟨rfl, rfl⟩
/-- At OUTQ_DEPTH = 3 one queued beat leaves ENC ready (95_test_vectors.md section 2.8). -/
theorem test_deeper_queue_is_ready :
    ({ encAt 0 0 0 [encEndWord] with cfg := { charW := 21, outqDepth := 3 } } : State).encInReady =
      true := by decide

/-! ### Messages (95_test_vectors.md sections 1 and 2) -/

theorem test_encode_abcd :
    encodeMsg [0x61, 0x62, 0x63, 0x64] = [0x59, 0x57, 0x4A, 0x6A, 0x5A, 0x41, 0x3D, 0x3D] := by decide
theorem test_decode_lenient : decodeMsg [0x59, 0x52, 0x3D, 0x3D] = .ok [0x61] := by decide
theorem test_decode_priority :
    decodeMsg [0x51, 0x55, 0x4A, 0x44, 0xA9] = .lengthError ∧
    decodeMsg [0x59, 0x51, 0x3D, 0x3D, 0x59, 0x51, 0x3D, 0x3D] = .characterError := by decide
theorem test_canon : canon [0x59, 0x57, 0x2F, 0x3D] = [0x59, 0x57, 0x38, 0x3D] ∧
    canon [0x59, 0x2F, 0x3D, 0x3D] = [0x59, 0x77, 0x3D, 0x3D] := by decide

/-! ### Assembly text (95_test_vectors.md section 2.7) -/

theorem test_asm_quoted_operand :
    assembleText Params.standard .codePoint
      ['e', 'n', 'c', '.', 'b', 'y', 't', 'e', ' ', '\'', 'a', '\'', ' ', ';', 'x'] =
      .ok [.pushE 0x061] := by rfl
theorem test_asm_hex_operand :
    assembleText Params.standard .codePoint
      ['d', 'e', 'c', '.', 'c', 'h', 'a', 'r', ' ', '0', 'x', 'A', '9'] = .ok [.pushD 0xA9] := by rfl
/-- Vector S11 writes `enc.msg "Man"`: its ASCII codes as bytes, then END (R61, log 17). -/
theorem test_asm_enc_msg_string :
    assembleText Params.standard .codePoint
      ['e', 'n', 'c', '.', 'm', 's', 'g', ' ', '"', 'M', 'a', 'n', '"'] =
      .ok [.pushE 0x04D, .pushE 0x061, .pushE 0x06E, .pushE 0x300] := by rfl
theorem test_asm_refuses_wide_byte :
    assembleLine Params.standard .codePoint (.encByte 256) = .error .byteOutOfRange := by rfl

/-! ### Witnesses: the hypotheses of each statement can be met -/

/-- A host action is pending. -/
def pending (l : List HostAction) : State := State.reset.withActions l

theorem witness_ResetStep : (pending [.reset]).env.actions = .reset :: [] := rfl
theorem witness_IdleHost : State.reset.env.actions = [] := rfl
theorem witness_StepRuns_enc : (pending [.pushE 0x3FF]).env.actions = .pushE 0x3FF :: [] := rfl
theorem witness_StepRuns_dec :
    (pending [.pushD 0x7FFFFF]).env.actions = .pushD 0x7FFFFF :: [] ∧
    decodeDec (pending [.pushD 0x7FFFFF]).cfg 0x7FFFFF = .ok .decEnd := ⟨rfl, rfl⟩
theorem witness_TableWord :
    State.reset.cfg = Params.standard ∧ decodeTableWord 16 0x3FF = some .encEnd ∧
    decodeTableWord 24 0x7FFFFF = some .decEnd := by decide
theorem witness_StepTakesOneAction :
    step (pending [.pushE 0x100]) = .next (pending []) := rfl
theorem witness_RoundTrip :
    Instr.wf { charW := 8, outqDepth := 2 } (.decCharLast 0xFF) = true := by decide
theorem witness_DecoderIsTotal :
    PortWord.wf { charW := 8, outqDepth := 2 } (.dec 0x3FF) = true ∧
    PortWord.wf Params.standard (.enc 0x3FF) = true := by decide
theorem witness_IgnoredField : 0xFF < 2 ^ (Params.mk 8 2).charW := by decide
theorem witness_TooWideDecWord :
    (pending [.pushD 0x800000]).env.actions = .pushD 0x800000 :: [] ∧
    2 ^ ((pending [.pushD 0x800000]).cfg.charW + 2) ≤ 0x800000 := by decide

theorem witness_EncBeats_cnt0 : (encAt 0 0 0 []).encInReady = true ∧ (encAt 0 0 0 []).enc.eCnt = 0#2 := by
  decide
theorem witness_EncBeats_cnt1 :
    (encAt 1 0xFF 0 []).encInReady = true ∧ (encAt 1 0xFF 0 []).enc.eCnt = 1#2 := by decide
theorem witness_EncBeats_cnt2 :
    (encAt 2 0xFF 0xFF []).encInReady = true ∧ (encAt 2 0xFF 0xFF []).enc.eCnt = 2#2 := by decide
theorem witness_IllegalEncCount :
    (encAt 3 0 0 []).encInReady = true ∧ (encAt 3 0 0 []).enc.eCnt = 3#2 := by decide

theorem witness_DecChar_err :
    (decAt 2 0 0 0 false true).decInReady = true ∧ (decAt 2 0 0 0 false true).dec.dErr = true ∧
    (decAt 2 0 0 0 false true).dec.dPos ≠ 3#2 ∧ (decAt 3 0 0 0 false true).decInReady = true ∧
    (decAt 3 0 0 0 false true).dec.dErr = true ∧ (decAt 3 0 0 0 false true).dec.dPos = 3#2 := by decide
theorem witness_DecChar_held :
    (decHolding 2 0x6161).decInReady = true ∧ (decHolding 2 0x6161).dec.dErr = false ∧
    (decHolding 2 0x6161).dec.dHoldValid = true ∧ (decHolding 2 0x6161).dec.dPos ≠ 3#2 := by decide
/-- No run reaches a held group at position 3 (I6), but the rule covers it. -/
theorem witness_DecChar_held_at3 :
    let s := State.reset.withDec { Dec.reset with dHoldValid := true, dPos := 3 }
    s.decInReady = true ∧ s.dec.dErr = false ∧ s.dec.dHoldValid = true ∧ s.dec.dPos = 3#2 := by decide
/-- State s and character c meet the hypotheses of one row of R92's table. -/
def cleanRow (s : State) (c : Nat) (pos : BitVec 2) (k : CharClass) (pad2 : Bool) : Bool :=
  s.decInReady && !s.dec.dErr && !s.dec.dHoldValid && s.dec.dPos == pos && rev c == k &&
    s.dec.dPad2 == pad2
theorem witness_DecChar_rows :
    cleanRow State.reset 0x2F 0 (.val 63) false = true ∧
    cleanRow State.reset 0x3D 0 .pad false = true ∧
    cleanRow State.reset 0x7B 0 .invalid false = true ∧
    cleanRow (decAt 1 63 0 0 false false) 0x41 1 (.val 0) false = true ∧
    cleanRow (decAt 1 63 0 0 false false) 0x3D 1 .pad false = true ∧
    cleanRow (decAt 1 63 0 0 false false) 0x80 1 .invalid false = true ∧
    cleanRow (decAt 2 63 63 0 false false) 0x2B 2 (.val 62) false = true ∧
    cleanRow (decAt 2 63 63 0 false false) 0x3D 2 .pad false = true ∧
    cleanRow (decAt 2 63 63 0 false false) 0x00 2 .invalid false = true ∧
    cleanRow (decAt 3 63 63 63 false false) 0x2F 3 (.val 63) false = true ∧
    cleanRow (decAt 3 63 63 0 true false) 0x2F 3 (.val 63) true = true ∧
    cleanRow (decAt 3 63 63 63 false false) 0x1FFFFF 3 .invalid false = true ∧
    cleanRow (decAt 3 63 63 63 false false) 0x3D 3 .pad false = true ∧
    cleanRow (decAt 3 63 63 0 true false) 0x3D 3 .pad true = true := by decide
theorem witness_DecChar_unpack :
    unpack 63 63 63 63 = (0xFF, 0xFF, 0xFF) ∧ unpack 63 63 63 0 = (0xFF, 0xFF, 0xC0) ∧
    unpack 63 63 0 0 = (0xFF, 0xF0, 0x00) := by decide
theorem witness_DecEnd :
    (decAt 1 0 0 0 false true).decInReady = true ∧ (decAt 0 0 0 0 false true).decInReady = true ∧
    (decHolding 2 0x6161).decInReady = true ∧ State.reset.decInReady = true := by decide
theorem witness_LastBeat :
    (∃ t, exec (.encByte 0x61) State.reset = .next t ∧ t.encInReady = true) ∧
    ∃ t, exec (.decChar 0x59) State.reset = .next t ∧ t.decInReady = true :=
  ⟨⟨_, rfl, rfl⟩, ⟨_, rfl, rfl⟩⟩
theorem witness_Causes :
    (decAt 1 0 0 0 false false).dec.dErr = false ∧
    ∃ t, exec (.decChar 0x3D) (decAt 1 0 0 0 false false) = .next t ∧ t.dec.dErr = true :=
  ⟨rfl, _, rfl, rfl⟩
theorem witness_ErrorFlag_set :
    ∃ t, step (pending [.pushD 0x3D]) = .next t ∧ (pending [.pushD 0x3D]).dec.dErr = false ∧
      t.dec.dErr = true := ⟨_, rfl, rfl, rfl⟩
theorem witness_ErrorFlag_cleared :
    ∃ t, step ((decAt 0 0 0 0 false true).withActions [.pushD 0x600000]) = .next t ∧
      ((decAt 0 0 0 0 false true).withActions [.pushD 0x600000]).dec.dErr = true ∧
      t.dec.dErr = false := ⟨_, rfl, rfl, rfl⟩
theorem witness_Unready :
    (encAt 0 0 0 [encEndWord]).encInReady = false ∧
    (State.reset.withDec { Dec.reset with dQ := [decEndWord 1] }).decInReady = false := by decide
theorem witness_Pops :
    ((encAt 0 0 0 [encEndWord]).withActions [.popE]).enc.eQ = encEndWord :: [] ∧
    ((State.reset.withDec { Dec.reset with dQ := [decEndWord 1] }).withActions [.popD]).dec.dQ =
      decEndWord 1 :: [] ∧ (pending [.popE]).enc.eQ = [] ∧ (pending [.popD]).dec.dQ = [] :=
  ⟨rfl, rfl, rfl, rfl⟩
theorem witness_NoOverflow :
    (pending [.pushE 0x261]).I10 ∧ (pending [.pushE 0x261]).env.actions.head? ≠ some .reset ∧
    ∃ t, step (pending [.pushE 0x261]) = .next t := ⟨by decide, by decide, _, rfl⟩
theorem witness_EncCounts :
    ∃ t, (Instr.encByteLast 0x61).isEnc = true ∧ exec (.encByteLast 0x61) State.reset = .next t :=
  ⟨_, rfl, rfl⟩
theorem witness_DecCounts :
    ∃ t, (Instr.decCharLast 0x59).isEnc = false ∧ exec (.decCharLast 0x59) State.reset = .next t :=
  ⟨_, rfl, rfl⟩
theorem witness_UnitsDoNotRead :
    State.reset.cfg = (decAt 1 5 0 0 false false).cfg ∧
    State.reset.enc = (decAt 1 5 0 0 false false).enc ∧
    State.reset.dec = (encAt 1 5 0 []).dec ∧ ∃ t, exec (.encByte 0x61) State.reset = .next t :=
  ⟨rfl, rfl, rfl, _, rfl⟩
theorem witness_Commute :
    ∃ t, runActions State.reset [.pushE 0x061, .pushD 0x59] = .next t := ⟨_, rfl⟩
theorem witness_StuckUnit :
    ((encAt 0 0 0 [encEndWord]).withActions [.pushD 0x59]).encInReady = false ∧
    ∃ t, step ((encAt 0 0 0 [encEndWord]).withActions [.pushD 0x59]) = .next t := ⟨rfl, _, rfl⟩
theorem witness_StuckUnit_dec :
    let s := (State.reset.withDec { Dec.reset with dQ := [decEndWord 1] }).withActions [.pushE 0x61]
    s.decInReady = false ∧ s.env.actions.head? ≠ some .reset ∧ s.env.actions.head? ≠ some .popD ∧
      ∃ t, step s = .next t := ⟨rfl, by decide, by decide, _, rfl⟩
theorem witness_Draining : State.reset.cfg.WF := by decide
theorem witness_Invariants :
    (pending [.pushD 0x59]).Inv ∧ (pending [.pushD 0x59]).OutWF ∧
    ∃ t, step (pending [.pushD 0x59]) = .next t := ⟨by decide, by decide, _, rfl⟩
theorem witness_Reachable :
    Params.standard.WF ∧
    ∃ t, runActions { State.reset with cfg := Params.standard } [.pushD 0x3D] = .next t :=
  ⟨by decide, _, rfl⟩
theorem witness_NoFault : State.reset.enc.I1 := by decide
theorem witness_OpenMessage :
    State.reset.enc.AtStart ∧ HostAction.reset ∉ [HostAction.pushE 0x061] ∧
    encOpen (encBeatsOf [.pushE 0x061]) = some [0x61] ∧
    ∃ t, runActions State.reset [.pushE 0x061] = .next t := ⟨by decide, by decide, by decide, _, rfl⟩
/-- "Man" and one byte more: one whole group is pushed, and the open byte is not visible. -/
theorem witness_OpenMessage_group :
    let acts : List HostAction := [.pushE 0x04D, .pushE 0x061, .pushE 0x06E, .popE, .pushE 0x061]
    HostAction.reset ∉ acts ∧ encOpen (encBeatsOf acts) = some [0x4D, 0x61, 0x6E, 0x61] ∧
    ∃ t, runActions State.reset acts = .next t ∧ t.encStream = [0x0_5457_4675] :=
  ⟨by decide, by decide, _, rfl, rfl⟩
/-- QUJD and one character more: one full group is pushed. -/
theorem witness_OpenMessage_group_dec :
    let acts : List HostAction := [.pushD 0x51, .pushD 0x55, .pushD 0x4A, .pushD 0x44, .popD, .pushD 0x59]
    HostAction.reset ∉ acts ∧
    decOpen (decBeatsOf Params.standard acts) = some [0x51, 0x55, 0x4A, 0x44, 0x59] ∧
    ∃ t, runActions State.reset acts = .next t ∧ t.decStream = [0x341_4243] :=
  ⟨by decide, by decide, _, rfl, rfl⟩
theorem witness_OpenMessage_dec :
    State.reset.dec.AtStart ∧ HostAction.reset ∉ [HostAction.pushD 0x59] ∧
    decOpen (decBeatsOf Params.standard [.pushD 0x59]) = some [0x59] ∧
    ∃ t, runActions State.reset [.pushD 0x59] = .next t := ⟨by decide, by decide, by decide, _, rfl⟩
theorem witness_EncMessage :
    State.reset.enc.AtStart ∧ HostAction.reset ∉ [HostAction.pushE 0x261] ∧
    encMessage (encBeatsOf [.pushE 0x261]) = some [0x61] ∧
    ∃ t, runActions State.reset [.pushE 0x261] = .next t := ⟨by decide, by decide, by decide, _, rfl⟩
theorem witness_DecMessage :
    State.reset.dec.AtStart ∧ HostAction.reset ∉ [HostAction.pushD 0x400059] ∧
    decMessage (decBeatsOf State.reset.cfg [.pushD 0x400059]) = some [0x59] ∧
    (decodeMsg [0x59]).status ≠ .ok ∧
    ∃ t, runActions State.reset [.pushD 0x400059] = .next t :=
  ⟨by decide, by decide, by decide, by decide, _, rfl⟩
theorem witness_DecMessage_ok :
    decMessage (decBeatsOf State.reset.cfg [.pushD 0x600000]) = some [] ∧
    decodeMsg [] = .ok [] ∧ ∃ t, runActions State.reset [.pushD 0x600000] = .next t :=
  ⟨by decide, by decide, _, rfl⟩
theorem witness_Delivered :
    State.reset.Inv ∧ State.reset.enc.AtStart ∧ State.reset.dec.AtStart ∧
    ∀ c ∈ [0x1FFFFF], c < 2 ^ State.reset.cfg.charW :=
  ⟨by decide, by decide, by decide, by simp [State.reset, Params.standard]⟩
/-- The empty message through both units: ENC's END alone, then DEC's END_OK alone. -/
theorem witness_HardwareRoundTrip :
    ∃ t, runActions State.reset [.pushE 0x300] = .next t ∧
      encMessage (encBeatsOf [.pushE 0x300]) = some [] ∧
      t.encStream = State.reset.encStream ++ [] ++ [encEndWord] ∧ t.dec.AtStart ∧
      decMessage (decBeatsOf t.cfg [.pushD 0x600000]) =
        some (codes (([] : List EncOutWord).map encLanes).flatten) ∧
      ∃ t', runActions t [.pushD 0x600000] = .next t' :=
  ⟨_, rfl, by decide, rfl, by decide, by decide, _, rfl⟩
theorem witness_Padding :
    rev 0x51 = .val 16 ∧ rev 0x52 = .val 17 ∧
    (16 : Sextet).extractLsb' 4 2 = (17 : Sextet).extractLsb' 4 2 ∧
    decodeMsg ([] ++ [0x59, 0x51, 0x3D, 0x3D]) = .ok [0x61] := by decide
theorem witness_Padding_one :
    rev 0x45 = .val 4 ∧ rev 0x46 = .val 5 ∧
    (4 : Sextet).extractLsb' 2 4 = (5 : Sextet).extractLsb' 2 4 ∧
    decodeMsg ([] ++ [0x59, 0x57, 0x45, 0x3D]) = .ok [0x61, 0x61] := by decide
theorem witness_Assembler :
    255 < 256 ∧ 0x1FFFFF < 2 ^ Params.standard.charW ∧ 2 ^ Params.standard.charW ≤ 0x200000 := by decide
theorem witness_Pseudo :
    (∀ n ∈ [255], n < 256) ∧ ∀ c ∈ textCodes .codePoint [0x59], c < 2 ^ Params.standard.charW := by
  decide
theorem witness_CharUnit :
    (∀ c ∈ [0xFFFF], c ≤ 0xFFFF) ∧ 0x10000 ∈ [0x10000] ∧ 0xFFFF < 0x10000 := by decide

end Sys2Proof.Tests
end

/-! ### The beats as register transfers of their unit -/

namespace Sys2Proof.Machine

/-- The register transfer of an ENC beat (R64 to R67). A DEC beat has none on ENC. -/
def encBeatRule : Instr → Enc → Except Fault Enc
  | .encByte b => encByteRule b
  | .encByteLast b => encByteLastRule b
  | .encEnd => encEndRule
  | _ => encNopRule

/-- The register transfer of a DEC beat (R77 to R80). An ENC beat has none on DEC. -/
def decBeatRule : Instr → Dec → Dec
  | .decChar c => decCharRule c
  | .decCharLast c => decCharLastRule c
  | .decEnd => decEndRule
  | _ => decNopRule

/-- An ENC beat is its register transfer under the acceptance condition of R93 and R94. -/
theorem exec_eq_acceptEnc (i : Instr) (s : State) (hi : i.isEnc = true) :
    exec i s = acceptEnc s (encBeatRule i) := by
  cases i with
  | encByte _ | encByteLast _ | encEnd | encNop => rfl
  | decChar _ | decCharLast _ | decEnd | decNop => cases hi

/-- A DEC beat is its register transfer under the acceptance condition of R93 and R94. -/
theorem exec_eq_acceptDec (i : Instr) (s : State) (hi : i.isEnc = false) :
    exec i s = acceptDec s (decBeatRule i) := by
  cases i with
  | encByte _ | encByteLast _ | encEnd | encNop => cases hi
  | decChar _ | decCharLast _ | decEnd | decNop => rfl

theorem decodeEnc_isEnc (ew : EncInWord) : (decodeEnc ew).isEnc = true := by
  unfold decodeEnc
  cases ew.getLsbD 9 <;> cases ew.getLsbD 8 <;> rfl

theorem decBeat_isEnc (last null : Bool) (c : Nat) : (decBeat last null c).isEnc = false := by
  cases last <;> cases null <;> rfl

theorem decodeDec_isEnc (p : Params) (dw : Nat) (i : Instr) (h : decodeDec p dw = .ok i) :
    i.isEnc = false := by
  unfold decodeDec at h
  split at h
  · cases h; exact decBeat_isEnc _ _ _
  · cases h

/-- What an action that answers a next state did, down to the register transfer: `perform_next_cases`
with each operation's own law. -/
theorem perform_next_effect (a : HostAction) (s t : State) (h : perform a s = .next t) :
    (∃ ew u, a = .pushE ew ∧ encBeatRule (decodeEnc ew) s.enc = .ok u ∧ t = s.withEnc u) ∨
    (∃ dw i, a = .pushD dw ∧ decodeDec s.cfg dw = .ok i ∧ t = s.withDec (decBeatRule i s.dec)) ∨
    (∃ w q, a = .popE ∧ s.enc.eQ = w :: q ∧
      t = (s.withEnc { s.enc with eQ := q }).withEnv
        { s.env with encGot := s.env.encGot ++ [w] }) ∨
    (∃ w q, a = .popD ∧ s.dec.dQ = w :: q ∧
      t = (s.withDec { s.dec with dQ := q }).withEnv
        { s.env with decGot := s.env.decGot ++ [w] }) ∨
    (a = .reset ∧ t = resetBlock s) := by
  obtain ⟨ew, ha, he⟩ | ⟨dw, i, ha, hd, he⟩ | ⟨ha, he⟩ | ⟨ha, he⟩ | hr := perform_next_cases a s t h
  · rw [exec_eq_acceptEnc _ _ (decodeEnc_isEnc ew), acceptEnc_next] at he
    obtain ⟨-, u, hu, ht⟩ := he
    exact .inl ⟨ew, u, ha, hu, ht⟩
  · rw [exec_eq_acceptDec _ _ (decodeDec_isEnc _ _ _ hd), acceptDec_next] at he
    exact .inr (.inl ⟨dw, i, ha, hd, he.2⟩)
  · obtain ⟨w, q, hq, ht⟩ := (popEnc_next s t).mp he
    exact .inr (.inr (.inl ⟨w, q, ha, hq, ht⟩))
  · obtain ⟨w, q, hq, ht⟩ := (popDec_next s t).mp he
    exact .inr (.inr (.inr (.inl ⟨w, q, ha, hq, ht⟩)))
  · exact .inr (.inr (.inr (.inr hr)))

/-- No action writes the parameters (log 1) or the host's pending actions (log 2). -/
theorem perform_keeps_cfg_actions (a : HostAction) (s t : State) (h : perform a s = .next t) :
    t.cfg = s.cfg ∧ t.env.actions = s.env.actions := by
  obtain ⟨_, _, -, -, rfl⟩ | ⟨_, _, -, -, rfl⟩ | ⟨_, _, -, -, rfl⟩ | ⟨_, _, -, -, rfl⟩ | ⟨-, rfl⟩ :=
    perform_next_effect a s t h <;> exact ⟨rfl, rfl⟩

/-! ### Runs of host actions -/

theorem runActions_nil (s : State) : runActions s [] = .next (s.withActions []) := rfl

/-- A run performs its first action and then runs the rest from the state it left. -/
theorem runActions_cons_next (s s' : State) (a : HostAction) (l : List HostAction) :
    runActions s (a :: l) = .next s' ↔
      ∃ t, perform a (s.withActions l) = .next t ∧ runActions t l = .next s' := by
  have hstep : core.step (s.withActions (a :: l)) = perform a (s.withActions l) := rfl
  simp only [runActions, List.length_cons, Host.Core.run, hstep]
  cases hp : perform a (s.withActions l) with
  | next t =>
    have hl : t.env.actions = l := (perform_keeps_cfg_actions _ _ _ hp).2
    have ht : t.withActions l = t := by rw [← hl, State.withActions_self]
    simp [ht]
  | fault r => simp
  | refused r => simp

/-! ### One unit over a run, whatever the other unit and the pops do

A unit with everything it has pushed still in its queue. Pops move beats to the host, so they leave this
view alone, and a run without RESET acts on it as the unit's own beats do, one after the other. -/

/-- ENC with q put in front of its queue. -/
def Enc.behind (q : List EncOutWord) (u : Enc) : Enc := { u with eQ := q ++ u.eQ }

/-- DEC with q put in front of its queue. -/
def Dec.behind (q : List DecOutWord) (d : Dec) : Dec := { d with dQ := q ++ d.dQ }

/-- ENC as if nothing had been popped: its queue is `State.encStream`. -/
def State.encView (s : State) : Enc := s.enc.behind s.env.encGot

/-- DEC as if nothing had been popped: its queue is `State.decStream`. -/
def State.decView (s : State) : Dec := s.dec.behind s.env.decGot

@[simp] theorem State.encView_eCnt (s : State) : s.encView.eCnt = s.enc.eCnt := rfl
@[simp] theorem State.encView_eActive (s : State) : s.encView.eActive = s.encBusy := rfl
@[simp] theorem State.encView_eQ (s : State) : s.encView.eQ = s.encStream := rfl
@[simp] theorem State.encView_withEnc (s : State) (u : Enc) :
    (s.withEnc u).encView = u.behind s.env.encGot := rfl
@[simp] theorem State.encView_withDec (s : State) (d : Dec) : (s.withDec d).encView = s.encView := rfl
@[simp] theorem State.encView_withActions (s : State) (l : List HostAction) :
    (s.withActions l).encView = s.encView := rfl
@[simp] theorem State.decView_dPos (s : State) : s.decView.dPos = s.dec.dPos := rfl
@[simp] theorem State.decView_dActive (s : State) : s.decView.dActive = s.decBusy := rfl
@[simp] theorem State.decView_dQ (s : State) : s.decView.dQ = s.decStream := rfl
@[simp] theorem State.decView_withDec (s : State) (d : Dec) :
    (s.withDec d).decView = d.behind s.env.decGot := rfl
@[simp] theorem State.decView_withEnc (s : State) (u : Enc) : (s.withEnc u).decView = s.decView := rfl
@[simp] theorem State.decView_withActions (s : State) (l : List HostAction) :
    (s.withActions l).decView = s.decView := rfl

theorem encByteRule_behind (q : List EncOutWord) (b : Byte) (u v : Enc)
    (h : encByteRule b u = .ok v) : encByteRule b (u.behind q) = .ok (v.behind q) := by
  rw [encByteRule_ok] at h ⊢
  obtain ⟨hc, rfl⟩ | ⟨hc, rfl⟩ | ⟨hc, rfl⟩ := h <;> simp [Enc.behind, hc]

theorem encEndRule_behind (q : List EncOutWord) (u v : Enc) (h : encEndRule u = .ok v) :
    encEndRule (u.behind q) = .ok (v.behind q) := by
  obtain ⟨t, ht, rfl⟩ := (encEndRule_ok u v).mp h
  refine (encEndRule_ok _ _).mpr ⟨t.behind q, ?_, by simp [Enc.behind, Enc.clear]⟩
  rw [encFlush_ok] at ht ⊢
  obtain ⟨hc, rfl⟩ | ⟨hc, rfl⟩ | ⟨hc, rfl⟩ := ht <;> simp [Enc.behind, Enc.push, hc]

/-- An ENC beat reads nothing of the queue and only appends to it. -/
theorem encBeatRule_behind (q : List EncOutWord) (i : Instr) (u v : Enc)
    (h : encBeatRule i u = .ok v) : encBeatRule i (u.behind q) = .ok (v.behind q) := by
  cases i with
  | encByte b => exact encByteRule_behind q b u v h
  | encByteLast b =>
    obtain ⟨t, ht, hv⟩ := (encByteLastRule_ok b u v).mp h
    exact (encByteLastRule_ok _ _ _).mpr
      ⟨_, encByteRule_behind q b u t ht, encEndRule_behind q t v hv⟩
  | encEnd => exact encEndRule_behind q u v h
  | _ => cases h; rfl

theorem decPlace_behind (q : List DecOutWord) (k : CharClass) (d : Dec) :
    decPlace k (d.behind q) = (decPlace k d).behind q := by
  rcases dPos_cases d.dPos with hp | hp | hp | hp <;> cases k <;>
    simp [decPlace, decAt0, decAt1, decAt2, decAt3, Dec.behind, hp, Dec.setErr, Dec.push, Dec.hold] <;>
    split_ifs <;> simp

theorem decAdvance_behind (q : List DecOutWord) (d : Dec) :
    decAdvance (d.behind q) = (decAdvance d).behind q := by
  by_cases hp : d.dPos = 3#2 <;> simp [decAdvance, Dec.behind, Dec.clearGroup, hp]

theorem decCharRule_behind (q : List DecOutWord) (c : Nat) (d : Dec) :
    decCharRule c (d.behind q) = (decCharRule c d).behind q := by
  have hv : decValidate (rev c) (d.behind q) = (decValidate (rev c) d).behind q := by
    unfold decValidate
    rw [decPlace_behind]
    show (if d.dErr then _ else if d.dHoldValid then _ else _) = _
    split_ifs <;> rfl
  rw [decCharRule, hv, decAdvance_behind, decCharRule]

theorem decEndRule_behind (q : List DecOutWord) (d : Dec) :
    decEndRule (d.behind q) = (decEndRule d).behind q := by
  have hf : decFlush (d.behind q) = (decFlush d).behind q := by
    unfold decFlush
    show (if d.endStatus = .ok ∧ d.dHoldValid = true then _ else _) = _
    split_ifs
    · simp [Dec.push, Dec.behind]
    · rfl
  rw [decEndRule, hf, decEndRule]
  show Dec.clear (Dec.push _ (decEndWord d.endStatus.code)) = _
  simp [Dec.push, Dec.clear, Dec.behind]

/-- A DEC beat reads nothing of the queue and only appends to it. -/
theorem decBeatRule_behind (q : List DecOutWord) (i : Instr) (d : Dec) :
    decBeatRule i (d.behind q) = (decBeatRule i d).behind q := by
  cases i with
  | decChar c => exact decCharRule_behind q c d
  | decCharLast c =>
    show decEndRule (decCharRule c (d.behind q)) = _
    rw [decCharRule_behind, decEndRule_behind]
    rfl
  | decEnd => exact decEndRule_behind q d
  | _ => rfl

/-- The register transfers of some ENC beats, one after the other. -/
def encRun (l : List Instr) (u : Enc) : Except Fault Enc := l.foldlM (fun v i => encBeatRule i v) u

/-- The register transfers of some DEC beats, one after the other. -/
def decRun (l : List Instr) (d : Dec) : Dec := l.foldl (fun e i => decBeatRule i e) d

@[simp] theorem encRun_nil (u : Enc) : encRun [] u = .ok u := rfl

theorem encRun_cons_of_ok {i : Instr} {u v : Enc} (h : encBeatRule i u = .ok v) (l : List Instr) :
    encRun (i :: l) u = encRun l v := by
  simp only [encRun, List.foldlM_cons, h]
  rfl

@[simp] theorem decRun_nil (d : Dec) : decRun [] d = d := rfl

@[simp] theorem decRun_cons (i : Instr) (l : List Instr) (d : Dec) :
    decRun (i :: l) d = decRun l (decBeatRule i d) := rfl

/-- A run without RESET does to ENC, pops undone, what its ENC beats do. -/
theorem runActions_encView (acts : List HostAction) (s s' : State) (hr : .reset ∉ acts)
    (h : runActions s acts = .next s') : encRun (encBeatsOf acts) s.encView = .ok s'.encView := by
  induction acts generalizing s with
  | nil => rw [runActions_nil] at h; cases h; rfl
  | cons a l ih =>
    obtain ⟨t, hp, ht⟩ := (runActions_cons_next s s' a l).mp h
    have hl := ih t (fun hm => hr (.tail _ hm)) ht
    obtain ⟨ew, u, rfl, hu, rfl⟩ | ⟨dw, i, rfl, -, rfl⟩ | ⟨w, q, rfl, hq, rfl⟩ |
      ⟨w, q, rfl, -, rfl⟩ | ⟨rfl, -⟩ := perform_next_effect a _ t hp
    · exact (encRun_cons_of_ok (encBeatRule_behind s.env.encGot _ _ _ hu) _).trans hl
    · exact hl
    · have hpop : s.encView = { s.enc with eQ := (s.env.encGot ++ [w]) ++ q } := by
        rw [State.withActions_enc] at hq
        simp [State.encView, Enc.behind, hq]
      rw [hpop]
      exact hl
    · exact hl
    · exact absurd (.head _) hr

/-- A run without RESET does to DEC, pops undone, what its DEC beats do. -/
theorem runActions_decView (acts : List HostAction) (s s' : State) (hr : .reset ∉ acts)
    (h : runActions s acts = .next s') : decRun (decBeatsOf s.cfg acts) s.decView = s'.decView := by
  induction acts generalizing s with
  | nil => rw [runActions_nil] at h; cases h; rfl
  | cons a l ih =>
    obtain ⟨t, hp, ht⟩ := (runActions_cons_next s s' a l).mp h
    have hl := ih t (fun hm => hr (.tail _ hm)) ht
    obtain ⟨ew, u, rfl, -, rfl⟩ | ⟨dw, i, rfl, hd, rfl⟩ | ⟨w, q, rfl, -, rfl⟩ |
      ⟨w, q, rfl, hq, rfl⟩ | ⟨rfl, -⟩ := perform_next_effect a _ t hp
    · exact hl
    · rw [State.withActions_cfg] at hd
      rw [decBeatsOf, hd]
      show decRun _ (decBeatRule i (s.dec.behind s.env.decGot)) = _
      rw [decBeatRule_behind]
      exact hl
    · exact hl
    · have hpop : s.decView = { s.dec with dQ := (s.env.decGot ++ [w]) ++ q } := by
        rw [State.withActions_dec] at hq
        simp [State.decView, Dec.behind, hq]
      rw [hpop]
      exact hl
    · exact absurd (.head _) hr

/-! ### An open ENC message -/

/-- NOP beats aside, an open ENC message is its ENC_BYTE beats (R67, R103). -/
theorem encRun_of_encOpen (l : List Instr) (x : List Byte) (u : Enc) (h : encOpen l = some x) :
    encRun l u = encRun (x.map .encByte) u := by
  fun_induction encOpen l generalizing x u with
  | case1 => cases h; rfl
  | case2 l ih => rw [encRun_cons_of_ok (v := u) rfl, ih x u h]
  | case3 b l ih =>
    obtain ⟨y, hy, rfl⟩ := Option.map_eq_some_iff.mp h
    simp only [List.map_cons, encRun, List.foldlM_cons] at ih ⊢
    cases encBeatRule (.encByte b) u with
    | ok v => exact ih y v hy
    | error f => rfl
  | case4 => cases h

/-- The DATA beats of the whole groups of three bytes of a message (R64). -/
def wholeGroupBeats : List Byte → List EncOutWord
  | a :: b :: c :: rest => encDataWord (pack (groupWord a b c) 0) :: wholeGroupBeats rest
  | [_, _] => []
  | [_] => []
  | [] => []

theorem wholeGroupBeats_length (x : List Byte) : (wholeGroupBeats x).length = x.length / 3 := by
  fun_induction wholeGroupBeats x with
  | case1 a b c rest ih => simp only [List.length_cons, ih]; omega
  | case2 | case3 | case4 => simp

theorem wholeGroupBeats_are_data (x : List Byte) : ∀ w ∈ wholeGroupBeats x, encIsEnd w = false := by
  fun_induction wholeGroupBeats x with
  | case1 a b c rest ih => simpa using ih
  | case2 | case3 | case4 => simp

/-- The characters of the whole groups are ENCODE of the bytes in them (R68). -/
theorem wholeGroupBeats_lanes (x : List Byte) :
    ((wholeGroupBeats x).map encLanes).flatten = encodeMsg (x.take (3 * (x.length / 3))) := by
  fun_induction wholeGroupBeats x with
  | case1 a b c rest ih =>
    have hn : 3 * ((a :: b :: c :: rest).length / 3) = 3 * (rest.length / 3) + 3 := by
      simp only [List.length_cons]; omega
    rw [hn]
    simp [encodeMsg, ih]
  | case2 | case3 | case4 => simp [encodeMsg]

/-- R64 with an empty group: the byte is held. -/
theorem encRun_first_byte (u : Enc) (hu : u.eCnt = 0#2) (b : Byte) (l : List Instr) :
    encRun (.encByte b :: l) u = encRun l { u with eActive := true, eB0 := b, eCnt := 1 } :=
  encRun_cons_of_ok (i := .encByte b) ((encByteRule_ok b u _).mpr (.inl ⟨hu, rfl⟩)) l

/-- R64 with one byte held: the second is held too. -/
theorem encRun_second_byte (u : Enc) (hu : u.eCnt = 1#2) (b : Byte) (l : List Instr) :
    encRun (.encByte b :: l) u = encRun l { u with eActive := true, eB1 := b, eCnt := 2 } :=
  encRun_cons_of_ok (i := .encByte b) ((encByteRule_ok b u _).mpr (.inr (.inl ⟨hu, rfl⟩))) l

/-- R64 with two bytes held: the group's DATA beat is pushed and the group is empty again. -/
theorem encRun_third_byte (u : Enc) (hu : u.eCnt = 2#2) (b : Byte) (l : List Instr) :
    encRun (.encByte b :: l) u = encRun l { u with
      eActive := true, eB0 := 0, eB1 := 0, eCnt := 0,
      eQ := u.eQ ++ [encDataWord (pack (groupWord u.eB0 u.eB1 b) 0)] } :=
  encRun_cons_of_ok (i := .encByte b) ((encByteRule_ok b u _).mpr (.inr (.inr ⟨hu, rfl⟩))) l

/-- What ENC_BYTE beats leave, from an empty group: the count of the partial group, the activity, and the
DATA beats of the whole groups and no others (R15, R64). -/
theorem encRun_bytes (x : List Byte) (u : Enc) (hu : u.eCnt = 0#2) :
    ∃ v, encRun (x.map .encByte) u = .ok v ∧ v.eCnt.toNat = x.length % 3 ∧
      v.eActive = (u.eActive || !x.isEmpty) ∧ v.eQ = u.eQ ++ wholeGroupBeats x := by
  fun_induction wholeGroupBeats x generalizing u with
  | case1 a b c rest ih =>
    simp only [List.map_cons]
    rw [encRun_first_byte u hu, encRun_second_byte _ rfl, encRun_third_byte _ rfl]
    obtain ⟨v, hv, hcnt, hact, hq⟩ := ih { u with
      eActive := true, eB0 := 0, eB1 := 0, eCnt := 0,
      eQ := u.eQ ++ [encDataWord (pack (groupWord a b c) 0)] } rfl
    exact ⟨v, hv, by simp [hcnt]; omega, by simp [hact], by simp [hq]⟩
  | case2 a b =>
    exact ⟨_, (encRun_first_byte u hu _ _).trans (encRun_second_byte _ rfl _ _), rfl, by simp,
      by simp⟩
  | case3 a => exact ⟨_, encRun_first_byte u hu _ _, rfl, by simp, by simp⟩
  | case4 => exact ⟨u, rfl, by simp [hu], by simp, by simp⟩

/-- The ENC half of the open message: R9, R15 and R103 over any interleaving. -/
theorem enc_open_message (s s' : State) (acts : List HostAction) (x : List Byte)
    (hs : s.enc.AtStart) (hr : .reset ∉ acts) (hx : encOpen (encBeatsOf acts) = some x)
    (h : runActions s acts = .next s') :
    s'.enc.eCnt.toNat = x.length % 3 ∧ (s'.encBusy = true ↔ x ≠ []) ∧
      s'.encStream = s.encStream ++ wholeGroupBeats x := by
  obtain ⟨hcnt0, -, -, hidle⟩ := hs
  obtain ⟨v, hv, hcnt, hact, hq⟩ := encRun_bytes x s.encView hcnt0
  have hview : v = s'.encView := by
    have hrun := runActions_encView acts s s' hr h
    rw [encRun_of_encOpen _ x _ hx, hv] at hrun
    exact Except.ok.inj hrun
  subst hview
  refine ⟨hcnt, ?_, hq⟩
  have hbusy : s'.encBusy = (s.enc.eActive || !x.isEmpty) := hact
  simp [hbusy, hidle]

/-! ### An open DEC message -/

/-- NOP beats aside, an open DEC message is its DEC_CHAR beats (R80, R103). -/
theorem decRun_of_decOpen (l : List Instr) (cs : List Nat) (d : Dec) (h : decOpen l = some cs) :
    decRun l d = decRun (cs.map .decChar) d := by
  fun_induction decOpen l generalizing cs d with
  | case1 => cases h; rfl
  | case2 l ih => exact ih cs d h
  | case3 c l ih =>
    obtain ⟨y, hy, rfl⟩ := Option.map_eq_some_iff.mp h
    exact ih y _ hy
  | case4 => cases h

theorem CharClass.isVal_iff (k : CharClass) : k.isVal = true ↔ ∃ v, k = .val v := by
  cases k <;> simp [CharClass.isVal]

/-- No later DEC_CHAR of the message pushes: an error is recorded, a padded group is held, or the group
has its PAD at position 2 and can only end in one of those. -/
def Dec.Spoiled (d : Dec) : Prop :=
  d.dErr = true ∨ d.dHoldValid = true ∨ (d.dPos = 3#2 ∧ d.dPad2 = true)

theorem decRun_chars_append (cs cs' : List Nat) (d : Dec) :
    decRun ((cs ++ cs').map .decChar) d = decRun (cs'.map .decChar) (decRun (cs.map .decChar) d) := by
  rw [List.map_append, decRun, List.foldl_append]
  rfl

/-- R77 by its three guards: a sticky error, a held group, or neither. -/
theorem decCharRule_cases (c : Nat) (d : Dec) :
    (d.dErr = true ∧ decCharRule c d = decAdvance d) ∨
    (d.dErr = false ∧ d.dHoldValid = true ∧ decCharRule c d = decAdvance d.setErr.dropHold) ∨
    (d.dErr = false ∧ d.dHoldValid = false ∧
      decCharRule c d = decAdvance (decPlace (rev c) d)) := by
  cases he : d.dErr with
  | true => exact .inl ⟨rfl, decCharRule_of_err c d he⟩
  | false =>
    cases hv : d.dHoldValid with
    | true => exact .inr (.inl ⟨rfl, rfl, decCharRule_of_held c d he hv⟩)
    | false => exact .inr (.inr ⟨rfl, rfl, decCharRule_of_clean c d he hv⟩)

@[simp] theorem decPlace_dPos (k : CharClass) (d : Dec) : (decPlace k d).dPos = d.dPos := by
  rcases dPos_cases d.dPos with hp | hp | hp | hp <;> cases k <;>
    simp [decPlace, decAt0, decAt1, decAt2, decAt3, hp] <;> split_ifs <;> simp [hp]

/-- R77 counts every character, whatever its class. -/
@[simp] theorem decCharRule_dPos (c : Nat) (d : Dec) : (decCharRule c d).dPos = d.dPos + 1 := by
  obtain ⟨-, hd⟩ | ⟨-, -, hd⟩ | ⟨-, -, hd⟩ := decCharRule_cases c d <;> simp [hd]

@[simp] theorem decCharRule_dActive (c : Nat) (d : Dec) : (decCharRule c d).dActive = true := rfl

/-- DEC_CHAR pushes only the full group that its VAL character completes (R91). -/
theorem decCharRule_pushes_only_full_group (c : Nat) (d : Dec) :
    (decCharRule c d).dQ = d.dQ ∨ (d.dPos = 3#2 ∧ ¬ d.Spoiled ∧ (rev c).isVal = true) := by
  obtain ⟨-, hd⟩ | ⟨-, -, hd⟩ | ⟨he, hv, hd⟩ := decCharRule_cases c d
  · simp [hd]
  · simp [hd]
  rw [hd, decAdvance_dQ]
  obtain ⟨-, ⟨v, -, h⟩ | ⟨-, h⟩⟩ | ⟨-, ⟨v, -, h⟩ | ⟨-, h⟩⟩ | ⟨-, ⟨v, -, h⟩ | ⟨-, h⟩ | ⟨-, h⟩⟩ |
    ⟨hp, ⟨v, b0, b1, b2, hk, hp2, -, h⟩ | ⟨v, -, -, h⟩ | ⟨b0, b1, b2, -, -, -, h⟩ |
      ⟨b0, b1, b2, -, -, -, h⟩ | ⟨-, h⟩⟩ := decPlace_cases (rev c) d
  case inr.inr.inr.inl =>
    exact .inr ⟨hp, by simp [Dec.Spoiled, he, hv, hp2], by simp [hk, CharClass.isVal]⟩
  all_goals exact .inl (by simp [h])

/-- A message stays spoiled, and a character that is no VAL spoils it. -/
theorem decCharRule_spoiled (c : Nat) (d : Dec) (h : d.Spoiled ∨ (rev c).isVal = false) :
    (decCharRule c d).Spoiled := by
  obtain ⟨he, hd⟩ | ⟨-, -, hd⟩ | ⟨he, hv, hd⟩ := decCharRule_cases c d
  · simp [hd, Dec.Spoiled, he]
  · simp [hd, Dec.Spoiled]
  rw [hd]
  obtain ⟨hp, ⟨v, hk, -⟩ | ⟨-, hd⟩⟩ | ⟨hp, ⟨v, hk, -⟩ | ⟨-, hd⟩⟩ |
    ⟨hp, ⟨v, hk, -⟩ | ⟨-, hd⟩ | ⟨-, hd⟩⟩ |
    ⟨hp, ⟨v, b0, b1, b2, hk, hp2, -, -⟩ | ⟨v, -, -, hd⟩ | ⟨b0, b1, b2, -, -, -, hd⟩ |
      ⟨b0, b1, b2, -, -, -, hd⟩ | ⟨-, hd⟩⟩ := decPlace_cases (rev c) d
  case inl.inl | inr.inl.inl | inr.inr.inl.inl =>
    simp [Dec.Spoiled, he, hv, hp, hk, CharClass.isVal] at h
  case inr.inr.inr.inl => simp [Dec.Spoiled, he, hv, hp2, hk, CharClass.isVal] at h
  all_goals simp [hd, Dec.Spoiled, hp]

/-- DEC_CHAR beats count their characters modulo 4 (R9, R17). -/
theorem decRun_chars_dPos (cs : List Nat) (d : Dec) :
    (decRun (cs.map .decChar) d).dPos = d.dPos + BitVec.ofNat 2 cs.length := by
  induction cs generalizing d with
  | nil => simp
  | cons c cs ih =>
    rw [List.map_cons, decRun_cons, ih, decBeatRule, decCharRule_dPos]
    simp only [List.length_cons]
    bv_omega

theorem decRun_chars_dActive (cs : List Nat) (d : Dec) :
    (decRun (cs.map .decChar) d).dActive = (d.dActive || !cs.isEmpty) := by
  induction cs generalizing d with
  | nil => simp
  | cons c cs ih => simp [ih, decBeatRule]

/-- Characters that do not complete a group push nothing. -/
theorem decRun_chars_dQ_of_partial (cs : List Nat) (d : Dec) (h : d.dPos.toNat + cs.length < 4) :
    (decRun (cs.map .decChar) d).dQ = d.dQ := by
  induction cs generalizing d with
  | nil => rfl
  | cons c cs ih =>
    simp only [List.length_cons] at h
    have hpos : (decCharRule c d).dPos.toNat = d.dPos.toNat + 1 := by
      rw [decCharRule_dPos]; bv_omega
    rw [List.map_cons, decRun_cons, decBeatRule, ih _ (by omega)]
    refine (decCharRule_pushes_only_full_group c d).resolve_right fun ⟨hp, _⟩ => ?_
    simp only [hp, BitVec.toNat_ofNat] at h
    omega

/-- Nothing more is pushed in a spoiled message. -/
theorem decRun_chars_of_spoiled (cs : List Nat) (d : Dec) (h : d.Spoiled) :
    (decRun (cs.map .decChar) d).Spoiled ∧ (decRun (cs.map .decChar) d).dQ = d.dQ := by
  induction cs generalizing d with
  | nil => exact ⟨h, rfl⟩
  | cons c cs ih =>
    obtain ⟨hs, hq⟩ := ih _ (decCharRule_spoiled c d (.inl h))
    exact ⟨hs, hq.trans ((decCharRule_pushes_only_full_group c d).resolve_right fun hp => hp.2.1 h)⟩

/-- A character that is no VAL, anywhere among some characters, spoils the message. -/
theorem decRun_chars_spoiled_of_not_val (cs : List Nat) (d : Dec)
    (h : ∃ c ∈ cs, (rev c).isVal = false) : (decRun (cs.map .decChar) d).Spoiled := by
  induction cs generalizing d with
  | nil => simp at h
  | cons c cs ih =>
    by_cases hc : (rev c).isVal = false
    · exact (decRun_chars_of_spoiled cs _ (decCharRule_spoiled c d (.inr hc))).1
    · exact ih _ (by simpa [hc] using h)

/-- A group that is not of four VAL characters pushes nothing, and nothing after it does (R85). -/
theorem decRun_chars_dQ_of_bad_group (a b c e : Nat) (rest : List Nat) (d : Dec)
    (hp : d.dPos = 0#2) (h : ∃ x ∈ [a, b, c, e], (rev x).isVal = false) :
    (decRun ((a :: b :: c :: e :: rest).map .decChar) d).dQ = d.dQ := by
  have hfour : (decRun ([a, b, c, e].map .decChar) d).dQ = d.dQ := by
    have hthree := decRun_chars_dQ_of_partial [a, b, c] d (by simp [hp])
    have hlast := decCharRule_pushes_only_full_group e (decRun ([a, b, c].map .decChar) d)
    refine (hlast.resolve_right fun ⟨_, hclean, he⟩ => ?_).trans hthree
    exact hclean (decRun_chars_spoiled_of_not_val [a, b, c] d (by simpa [he] using h))
  have hspoiled := decRun_chars_spoiled_of_not_val [a, b, c, e] d h
  have hsplit := decRun_chars_append [a, b, c, e] rest d
  simp only [List.cons_append, List.nil_append] at hsplit
  rw [hsplit, (decRun_chars_of_spoiled rest _ hspoiled).2, hfour]

/-! R77 for a VAL character at each position, with no error and nothing held. -/

theorem decCharRule_val_at0 (c : Nat) (v : Sextet) (d : Dec) (he : d.dErr = false)
    (hv : d.dHoldValid = false) (hp : d.dPos = 0#2) (hc : rev c = .val v) :
    decCharRule c d = { d with dPos := 1, dV0 := v, dActive := true } := by
  simp [decCharRule_of_clean _ _ he hv, decPlace, decAt0, decAdvance, hp, hc]

theorem decCharRule_val_at1 (c : Nat) (v : Sextet) (d : Dec) (he : d.dErr = false)
    (hv : d.dHoldValid = false) (hp : d.dPos = 1#2) (hc : rev c = .val v) :
    decCharRule c d = { d with dPos := 2, dV1 := v, dActive := true } := by
  simp [decCharRule_of_clean _ _ he hv, decPlace, decAt1, decAdvance, hp, hc]

theorem decCharRule_val_at2 (c : Nat) (v : Sextet) (d : Dec) (he : d.dErr = false)
    (hv : d.dHoldValid = false) (hp : d.dPos = 2#2) (hc : rev c = .val v) :
    decCharRule c d = { d with dPos := 3, dV2 := v, dActive := true } := by
  simp [decCharRule_of_clean _ _ he hv, decPlace, decAt2, decAdvance, hp, hc]

theorem decCharRule_val_at3 (c : Nat) (v : Sextet) (b0 b1 b2 : Byte) (d : Dec) (he : d.dErr = false)
    (hv : d.dHoldValid = false) (hp : d.dPos = 3#2) (hp2 : d.dPad2 = false) (hc : rev c = .val v)
    (hu : unpack d.dV0 d.dV1 d.dV2 v = (b0, b1, b2)) :
    decCharRule c d = { d with
      dPos := 0, dV0 := 0, dV1 := 0, dV2 := 0, dPad2 := false, dActive := true,
      dQ := d.dQ ++ [decDataWord 3 b0 b1 b2] } := by
  simp [decCharRule_of_clean _ _ he hv, decPlace, decAt3, decAdvance, Dec.push, Dec.clearGroup, hp,
    hp2, hc, hu]

/-- R77 over a full group: from an empty group, with no error and nothing held, four VAL characters push
their DATA beat and empty the group again. -/
theorem decRun_full_group (a b c e : Nat) (v0 v1 v2 v3 : Sextet) (b0 b1 b2 : Byte) (l : List Instr)
    (d : Dec) (hp : d.dPos = 0#2) (hp2 : d.dPad2 = false) (he : d.dErr = false)
    (hv : d.dHoldValid = false) (h0 : rev a = .val v0) (h1 : rev b = .val v1) (h2 : rev c = .val v2)
    (h3 : rev e = .val v3) (hu : unpack v0 v1 v2 v3 = (b0, b1, b2)) :
    decRun (.decChar a :: .decChar b :: .decChar c :: .decChar e :: l) d =
      decRun l { d with
        dPos := 0, dV0 := 0, dV1 := 0, dV2 := 0, dPad2 := false, dActive := true,
        dQ := d.dQ ++ [decDataWord 3 b0 b1 b2] } := by
  have first := decCharRule_val_at0 a v0 d he hv hp h0
  have second := decCharRule_val_at1 b v1
    { d with dPos := 1, dV0 := v0, dActive := true } he hv rfl h1
  have third := decCharRule_val_at2 c v2
    { d with dPos := 2, dV0 := v0, dV1 := v1, dActive := true } he hv rfl h2
  have fourth := decCharRule_val_at3 e v3 b0 b1 b2
    { d with dPos := 3, dV0 := v0, dV1 := v1, dV2 := v2, dActive := true } he hv rfl hp2 h3 hu
  simp only [decRun_cons, decBeatRule]
  rw [first, second, third, fourth]

/-- What DEC_CHAR beats push, from an empty group with no error and nothing held: the DATA beats of the
leading full groups and no others (R77, R85). -/
theorem decRun_chars_dQ (cs : List Nat) (d : Dec) (hp : d.dPos = 0#2) (hp2 : d.dPad2 = false)
    (he : d.dErr = false) (hv : d.dHoldValid = false) :
    (decRun (cs.map .decChar) d).dQ = d.dQ ++ fullGroupBeats cs := by
  fun_induction fullGroupBeats cs generalizing d with
  | case1 a b c e rest v0 v1 v2 v3 h3 h2 h1 h0 b0 b1 b2 hu ih =>
    simp only [List.map_cons]
    rw [decRun_full_group a b c e v0 v1 v2 v3 b0 b1 b2 _ d hp hp2 he hv h0 h1 h2 h3 hu,
      ih]
    · simp
    · rfl
    · rfl
    · exact he
    · exact hv
  | case2 a b c e rest hbad =>
    have hnot : ∃ x ∈ [a, b, c, e], (rev x).isVal = false := by
      by_contra hall
      obtain ⟨⟨v0, h0⟩, ⟨v1, h1⟩, ⟨v2, h2⟩, v3, h3⟩ :
          (∃ v, rev a = .val v) ∧ (∃ v, rev b = .val v) ∧ (∃ v, rev c = .val v) ∧
            ∃ v, rev e = .val v := by
        simpa [CharClass.isVal_iff] using hall
      exact hbad v0 v1 v2 v3 h0 h1 h2 h3
    rw [decRun_chars_dQ_of_bad_group a b c e rest d hp hnot, List.append_nil]
  | case3 cs hshort =>
    have hlen : cs.length < 4 := by
      rcases cs with _ | ⟨a, _ | ⟨b, _ | ⟨c, _ | ⟨e, rest⟩⟩⟩⟩
      case cons.cons.cons.cons => exact (hshort a b c e rest rfl).elim
      all_goals simp
    rw [decRun_chars_dQ_of_partial cs d (by simpa [hp] using hlen), List.append_nil]

theorem fullGroupBeats_are_data (cs : List Nat) : ∀ w ∈ fullGroupBeats cs, decKind w = 0b00#2 := by
  fun_induction fullGroupBeats cs with
  | case1 _ _ _ _ _ _ _ _ _ _ _ _ _ b0 b1 b2 _ ih => simpa [decDataWord] using ih
  | case2 | case3 => simp

/-- The DEC half of the open message: R9, R17, R85 and R103 over any interleaving. -/
theorem dec_open_message (s s' : State) (acts : List HostAction) (cs : List Nat)
    (hs : s.dec.AtStart) (hr : .reset ∉ acts) (hcs : decOpen (decBeatsOf s.cfg acts) = some cs)
    (h : runActions s acts = .next s') :
    s'.dec.dPos.toNat = cs.length % 4 ∧ (s'.decBusy = true ↔ cs ≠ []) ∧
      s'.decStream = s.decStream ++ fullGroupBeats cs := by
  obtain ⟨hpos, -, -, -, hpad2, herr, hheld, -, -, hidle⟩ := hs
  have hrun : decRun (cs.map .decChar) s.decView = s'.decView := by
    rw [← decRun_of_decOpen _ cs _ hcs]
    exact runActions_decView acts s s' hr h
  have hcount := decRun_chars_dPos cs s.decView
  have hact := decRun_chars_dActive cs s.decView
  have hq := decRun_chars_dQ cs s.decView hpos hpad2 herr hheld
  rw [hrun] at hcount hact hq
  have hbusy : s'.decBusy = (s.dec.dActive || !cs.isEmpty) := hact
  refine ⟨?_, by simp [hbusy, hidle], hq⟩
  rw [State.decView_dPos, State.decView_dPos, hpos] at hcount
  simp [hcount]

/-! ### The statements of 00_scope.md -/

/-- Settles O2: the model's own fields at reset are those of logs 1 to 3. -/
theorem resetHostSideIsEmpty : Obligations.ResetHostSideIsEmpty :=
  ⟨rfl, rfl, by decide⟩

/-- Settles O47: each unit's run is the run of its own beats (`runActions_encView`,
`runActions_decView`), and the open message is followed group by group. -/
theorem openMessageKeepsItsLengthModuloTheGroup :
    Obligations.OpenMessageKeepsItsLengthModuloTheGroup := by
  constructor
  · intro s s' acts x hs hr hx h
    obtain ⟨hcnt, hbusy, hq⟩ := enc_open_message s s' acts x hs hr hx h
    exact ⟨hcnt, hbusy, wholeGroupBeats x, hq, wholeGroupBeats_length x, wholeGroupBeats_are_data x,
      wholeGroupBeats_lanes x⟩
  · intro s s' acts cs hs hr hcs h
    obtain ⟨hpos, hbusy, hq⟩ := dec_open_message s s' acts cs hs hr hcs h
    exact ⟨hpos, hbusy, hq, fullGroupBeats_are_data cs⟩

end Sys2Proof.Machine

/-! ### The ENC beats keep I1 to I3 (10_state.md R25) -/

namespace Sys2Proof.Machine

/-- At their reset values the ENC registers meet I1 to I3, whatever the queue holds. -/
theorem Enc.clear_inv (u : Enc) : u.clear.Inv :=
  ⟨by simp [Enc.I1], ⟨fun _ => ⟨rfl, rfl⟩, fun _ => rfl⟩, fun _ => rfl⟩

theorem encByteRule_keeps_inv (b : Byte) (u v : Enc) (hu : u.Inv) (h : encByteRule b u = .ok v) :
    v.Inv := by
  obtain ⟨-, ⟨hempty, -⟩, -⟩ := hu
  obtain ⟨hc, rfl⟩ | ⟨-, rfl⟩ | ⟨-, rfl⟩ := (encByteRule_ok b u v).mp h
  · simp [Enc.Inv, Enc.I1, Enc.I2, Enc.I3, hempty hc]
  · simp [Enc.Inv, Enc.I1, Enc.I2, Enc.I3]
  · simp [Enc.Inv, Enc.I1, Enc.I2, Enc.I3]

/-- R66 leaves every register at its reset value, so it needs no invariant before it. -/
theorem encEndRule_inv (u v : Enc) (h : encEndRule u = .ok v) : v.Inv := by
  obtain ⟨t, -, rfl⟩ := (encEndRule_ok u v).mp h
  exact (t.push encEndWord).clear_inv

theorem encBeatRule_keeps_inv (i : Instr) (u v : Enc) (hu : u.Inv) (h : encBeatRule i u = .ok v) :
    v.Inv := by
  cases i with
  | encByte b => exact encByteRule_keeps_inv b u v hu h
  | encByteLast b =>
    obtain ⟨t, -, hv⟩ := (encByteLastRule_ok b u v).mp h
    exact encEndRule_inv t v hv
  | encEnd => exact encEndRule_inv u v h
  | _ => cases h; exact hu

/-! ### The DEC beats keep I4 to I9 (10_state.md R25) -/

/-- At their reset values the DEC registers meet I4 to I9, whatever the queue holds. -/
theorem Dec.clear_inv (d : Dec) : d.clear.Inv :=
  ⟨fun _ => ⟨rfl, rfl, rfl, rfl⟩, fun _ => ⟨fun _ => rfl, fun _ => rfl, fun _ => ⟨rfl, rfl⟩⟩,
    by simp [Dec.I6], fun _ => ⟨rfl, rfl⟩, by simp [Dec.I8], fun _ => ⟨rfl, rfl, rfl⟩⟩

/-- What holds of DEC between the two parts of R77, when the character is placed and not yet counted: I5
speaks of the positions after the current one, and a group is held only at the last position (I6). -/
structure Dec.Placed (d : Dec) : Prop where
  after_first : d.dErr = false → d.dPos = 0#2 → d.dV1 = 0 ∧ d.dV2 = 0 ∧ d.dPad2 = false
  after_second : d.dErr = false → d.dPos = 1#2 → d.dV2 = 0 ∧ d.dPad2 = false
  held : d.dHoldValid = true →
    d.dPos = 3#2 ∧ d.dErr = false ∧ (d.dHoldN = 1#2 ∨ d.dHoldN = 2#2)
  i7 : d.I7
  i8 : d.I8

/-- R77's counting part leads from `Dec.Placed` to the invariants. -/
theorem Dec.Placed.decAdvance_inv {d : Dec} (h : d.Placed) : (decAdvance d).Inv := by
  have h4 : (decAdvance d).I4 := fun hp => by
    have hlast : d.dPos = 3#2 := by rw [decAdvance_dPos] at hp; bv_omega
    simp [hlast]
  have h5 : (decAdvance d).I5 := fun he => by
    rw [decAdvance_dErr] at he
    rcases dPos_cases d.dPos with hp | hp | hp | hp
    · simp [hp, h.after_first he hp]
    · simp [hp, h.after_second he hp]
    · simp [hp]
    · simp [hp]
  have h6 : (decAdvance d).I6 := fun hv => by
    rw [decAdvance_dHoldValid] at hv
    obtain ⟨hp, he, hn⟩ := h.held hv
    simp [hp, he, hn]
  exact ⟨h4, h5, h6, by simpa [Dec.I7] using h.i7, by simpa [Dec.I8] using h.i8, by simp [Dec.I9]⟩

/-- With nothing held, I8 follows from I7. -/
theorem Dec.I7.i8_of_unheld {d : Dec} (h7 : d.I7) (hv : d.dHoldValid = false) : d.I8 := by
  simp [Dec.I8, h7 hv]

/-- In a message with an error and nothing held, only I7 is left to know. -/
theorem Dec.placed_of_err {d : Dec} (he : d.dErr = true) (hv : d.dHoldValid = false) (h7 : d.I7) :
    d.Placed where
  after_first := by simp [he]
  after_second := by simp [he]
  held := by simp [hv]
  i7 := h7
  i8 := h7.i8_of_unheld hv

/-- R77's table, from a unit with no error and nothing held. -/
theorem decPlace_placed (k : CharClass) (d : Dec) (hd : d.Inv) (he : d.dErr = false)
    (hv : d.dHoldValid = false) : (decPlace k d).Placed := by
  obtain ⟨-, h5, -, h7, h8, -⟩ := hd
  obtain ⟨-, hv1, hv2⟩ := h5 he
  have herr : d.setErr.Placed := Dec.placed_of_err rfl hv h7
  obtain ⟨hp, ⟨v, -, h⟩ | ⟨-, h⟩⟩ | ⟨hp, ⟨v, -, h⟩ | ⟨-, h⟩⟩ |
    ⟨hp, ⟨v, -, h⟩ | ⟨-, h⟩ | ⟨-, h⟩⟩ |
    ⟨hp, ⟨v, b0, b1, b2, -, -, -, h⟩ | ⟨v, -, -, h⟩ | ⟨b0, b1, b2, -, -, -, h⟩ |
      ⟨b0, b1, b2, -, -, -, h⟩ | ⟨-, h⟩⟩ := decPlace_cases k d <;> rw [h]
  case inl.inl =>
    rw [hp] at hv1 hv2
    exact ⟨fun _ _ => ⟨hv1 (by decide), hv2 (by decide)⟩, by simp [hp], by simp [hv], h7, h8⟩
  case inr.inl.inl =>
    rw [hp] at hv2
    exact ⟨by simp [hp], fun _ _ => hv2 (by decide), by simp [hv], h7, h8⟩
  case inr.inr.inl.inl | inr.inr.inl.inr.inl | inr.inr.inr.inl =>
    exact ⟨by simp [hp], by simp [hp], by simp [hv], h7, h8⟩
  case inr.inr.inr.inr.inr.inl =>
    exact ⟨by simp [hp], by simp [hp], by simp [hp, he], by simp [Dec.I7],
      fun _ => BitVec.extractLsb'_append_eq_right⟩
  case inr.inr.inr.inr.inr.inr.inl =>
    exact ⟨by simp [hp], by simp [hp], by simp [hp, he], by simp [Dec.I7], by simp [Dec.I8]⟩
  all_goals exact herr

theorem decCharRule_keeps_inv (c : Nat) (d : Dec) (hd : d.Inv) : (decCharRule c d).Inv := by
  have ⟨_, _, h6, h7, _, _⟩ := hd
  obtain ⟨he, h⟩ | ⟨he, hv, h⟩ | ⟨he, hv, h⟩ := decCharRule_cases c d <;> rw [h]
  · have hv : d.dHoldValid = false := by
      by_contra hv
      obtain ⟨-, hclean, -⟩ := h6 (by simpa using hv)
      simp [he] at hclean
    exact (Dec.placed_of_err he hv h7).decAdvance_inv
  · exact (Dec.placed_of_err rfl rfl fun _ => ⟨rfl, rfl⟩).decAdvance_inv
  · exact (decPlace_placed _ d hd he hv).decAdvance_inv

theorem decBeatRule_keeps_inv (i : Instr) (d : Dec) (hd : d.Inv) : (decBeatRule i d).Inv := by
  cases i with
  | decChar c => exact decCharRule_keeps_inv c d hd
  | decCharLast c => exact Dec.clear_inv _
  | decEnd => exact Dec.clear_inv _
  | _ => exact hd

/-! ### How many beats a beat pushes (40_encoder.md R72, 41_decoder.md R91) -/

theorem encByteRule_pushes (b : Byte) (u v : Enc) (h : encByteRule b u = .ok v) :
    ∃ l, v.eQ = u.eQ ++ l ∧
      (l.length = if u.eCnt = 2#2 then 1 else 0) ∧ (u.eCnt = 2#2 ↔ v.eCnt = 0#2) := by
  obtain ⟨hc, rfl⟩ | ⟨hc, rfl⟩ | ⟨hc, rfl⟩ := (encByteRule_ok b u v).mp h
  · exact ⟨[], by simp [hc]⟩
  · exact ⟨[], by simp [hc]⟩
  · exact ⟨_, rfl, by simp [hc]⟩

theorem encEndRule_pushes (u v : Enc) (h : encEndRule u = .ok v) :
    ∃ l, v.eQ = u.eQ ++ l ∧ l.length = if u.eCnt = 0#2 then 1 else 2 := by
  obtain ⟨t, ht, rfl⟩ := (encEndRule_ok u v).mp h
  obtain ⟨hc, rfl⟩ | ⟨hc, rfl⟩ | ⟨hc, rfl⟩ := (encFlush_ok u t).mp ht
  · exact ⟨[_], rfl, by simp [hc]⟩
  · exact ⟨[_, _], List.append_assoc _ _ _, by simp [hc]⟩
  · exact ⟨[_, _], List.append_assoc _ _ _, by simp [hc]⟩

/-- The group that ENC_BYTE_LAST's byte completes is pushed by R64 or padded by R66, never both. -/
theorem encByteLastRule_pushes (b : Byte) (u v : Enc) (h : encByteLastRule b u = .ok v) :
    ∃ l, v.eQ = u.eQ ++ l ∧ l.length = 2 := by
  obtain ⟨t, ht, hv⟩ := (encByteLastRule_ok b u v).mp h
  obtain ⟨l, hl, hlen, hfull⟩ := encByteRule_pushes b u t ht
  obtain ⟨m, hm, hmlen⟩ := encEndRule_pushes t v hv
  refine ⟨l ++ m, by rw [hm, hl, List.append_assoc], ?_⟩
  rw [List.length_append, hlen, hmlen]
  by_cases hc : u.eCnt = 2#2
  · simp [hc, hfull.mp hc]
  · simp [hc, mt hfull.mpr hc]

/-- One input beat pushes at most two output beats: the room R93 asks for is enough. -/
theorem encBeatRule_pushes_le_two (i : Instr) (u v : Enc) (h : encBeatRule i u = .ok v) :
    ∃ l, v.eQ = u.eQ ++ l ∧ l.length ≤ 2 := by
  cases i with
  | encByte b =>
    obtain ⟨l, hl, hlen, -⟩ := encByteRule_pushes b u v h
    exact ⟨l, hl, by rw [hlen]; split_ifs <;> omega⟩
  | encByteLast b =>
    obtain ⟨l, hl, hlen⟩ := encByteLastRule_pushes b u v h
    exact ⟨l, hl, hlen.le⟩
  | encEnd =>
    obtain ⟨l, hl, hlen⟩ := encEndRule_pushes u v h
    exact ⟨l, hl, by rw [hlen]; split_ifs <;> omega⟩
  | _ => cases h; exact ⟨[], by simp⟩

/-- R77 pushes nothing, or one full group, and then nothing is held. -/
theorem decCharRule_pushes (c : Nat) (d : Dec) :
    (decCharRule c d).dQ = d.dQ ∨
      ∃ w, (decCharRule c d).dQ = d.dQ ++ [w] ∧ (decCharRule c d).dHoldValid = false := by
  obtain h | ⟨hp, hclean, hval⟩ := decCharRule_pushes_only_full_group c d
  · exact .inl h
  · obtain ⟨v, hc⟩ := (CharClass.isVal_iff _).mp hval
    obtain ⟨he, hv, hp2⟩ : d.dErr = false ∧ d.dHoldValid = false ∧ d.dPad2 = false := by
      simpa [Dec.Spoiled, hp] using hclean
    rw [decCharRule_val_at3 c v _ _ _ d he hv hp hp2 hc rfl]
    exact .inr ⟨_, rfl, hv⟩

theorem decEndRule_pushes (d : Dec) :
    ∃ l, (decEndRule d).dQ = d.dQ ++ l ∧
      l.length = if d.endStatus = .ok ∧ d.dHoldValid = true then 2 else 1 := by
  rw [decEndRule_dQ]
  unfold decFlush
  split_ifs
  · exact ⟨[_, _], List.append_assoc _ _ _, rfl⟩
  · exact ⟨[_], rfl, rfl⟩

/-- One input beat pushes at most two output beats: the room R93 asks for is enough. DEC_CHAR_LAST does
not push a full group and a held one both. -/
theorem decBeatRule_pushes_le_two (i : Instr) (d : Dec) :
    ∃ l, (decBeatRule i d).dQ = d.dQ ++ l ∧ l.length ≤ 2 := by
  cases i with
  | decChar c =>
    obtain h | ⟨w, h, -⟩ := decCharRule_pushes c d
    · exact ⟨[], h.trans (List.append_nil _).symm, by simp⟩
    · exact ⟨[w], h, by simp⟩
  | decCharLast c =>
    obtain ⟨l, hl, hlen⟩ := decEndRule_pushes (decCharRule c d)
    obtain h | ⟨w, h, hv⟩ := decCharRule_pushes c d
    · exact ⟨l, hl.trans (by rw [h]), by rw [hlen]; split_ifs <;> omega⟩
    · exact ⟨w :: l, hl.trans (by simp [h]), by simp [hlen, hv]⟩
  | decEnd =>
    obtain ⟨l, hl, hlen⟩ := decEndRule_pushes d
    exact ⟨l, hl, by rw [hlen]; split_ifs <;> omega⟩
  | _ => exact ⟨[], (List.append_nil _).symm, by simp⟩

/-! ### The invariants over steps and runs (10_state.md R25) -/

/-- No accepted beat takes a queue over its capacity (R97), from reachable states or not. -/
theorem exec_keeps_I10 (i : Instr) (s t : State) (hs : s.I10) (h : exec i s = .next t) : t.I10 := by
  obtain ⟨henc, hdec⟩ := hs
  cases hi : i.isEnc with
  | true =>
    rw [exec_eq_acceptEnc i s hi, acceptEnc_next] at h
    obtain ⟨hready, u, hu, rfl⟩ := h
    have hroom := (hasRoom_iff _ _).mp hready
    obtain ⟨l, hl, hlen⟩ := encBeatRule_pushes_le_two i _ u hu
    refine ⟨?_, hdec⟩
    rw [State.withEnc_enc, State.withEnc_cfg, hl, List.length_append]
    omega
  | false =>
    rw [exec_eq_acceptDec i s hi, acceptDec_next] at h
    obtain ⟨hready, rfl⟩ := h
    have hroom := (hasRoom_iff _ _).mp hready
    obtain ⟨l, hl, hlen⟩ := decBeatRule_pushes_le_two i s.dec
    refine ⟨henc, ?_⟩
    rw [State.withDec_dec, State.withDec_cfg, hl, List.length_append]
    omega

theorem exec_keeps_inv (i : Instr) (s t : State) (hs : s.Inv) (h : exec i s = .next t) : t.Inv := by
  obtain ⟨hwf, henc, hdec, h10⟩ := hs
  have hcap : t.I10 := exec_keeps_I10 i s t h10 h
  cases hi : i.isEnc with
  | true =>
    rw [exec_eq_acceptEnc i s hi, acceptEnc_next] at h
    obtain ⟨-, u, hu, rfl⟩ := h
    exact ⟨hwf, encBeatRule_keeps_inv i _ u henc hu, hdec, hcap⟩
  | false =>
    rw [exec_eq_acceptDec i s hi, acceptDec_next] at h
    obtain ⟨-, rfl⟩ := h
    exact ⟨hwf, henc, decBeatRule_keeps_inv i _ hdec, hcap⟩

theorem popEnc_keeps_inv (s t : State) (hs : s.Inv) (h : popEnc s = .next t) : t.Inv := by
  obtain ⟨hwf, henc, hdec, hcap, hcapd⟩ := hs
  obtain ⟨w, q, hq, rfl⟩ := (popEnc_next s t).mp h
  rw [hq, List.length_cons] at hcap
  exact ⟨hwf, henc, hdec, Nat.le_of_succ_le hcap, hcapd⟩

theorem popDec_keeps_inv (s t : State) (hs : s.Inv) (h : popDec s = .next t) : t.Inv := by
  obtain ⟨hwf, henc, hdec, hcap, hcapd⟩ := hs
  obtain ⟨w, q, hq, rfl⟩ := (popDec_next s t).mp h
  rw [hq, List.length_cons] at hcapd
  exact ⟨hwf, henc, hdec, hcap, Nat.le_of_succ_le hcapd⟩

/-- RESET leads to the invariants from every state with legal parameters. -/
theorem resetBlock_inv (s : State) (hwf : s.cfg.WF) : (resetBlock s).Inv :=
  ⟨hwf, Enc.reset.clear_inv, Dec.reset.clear_inv, Nat.zero_le _, Nat.zero_le _⟩

theorem perform_keeps_inv (a : HostAction) (s t : State) (hs : s.Inv) (h : perform a s = .next t) :
    t.Inv := by
  obtain ⟨ew, -, he⟩ | ⟨dw, i, -, -, he⟩ | ⟨-, he⟩ | ⟨-, he⟩ | ⟨-, rfl⟩ := perform_next_cases a s t h
  · exact exec_keeps_inv _ s t hs he
  · exact exec_keeps_inv i s t hs he
  · exact popEnc_keeps_inv s t hs he
  · exact popDec_keeps_inv s t hs he
  · exact resetBlock_inv s hs.1

/-- A property of states that the list of pending actions has no part in and every action keeps holds
after every run from a state that has it. -/
theorem runActions_keeps (P : State → Prop) (hlist : ∀ s l, P s → P (s.withActions l))
    (hperform : ∀ a s t, P s → perform a s = .next t → P t) (acts : List HostAction) (s s' : State)
    (hs : P s) (h : runActions s acts = .next s') : P s' := by
  induction acts generalizing s with
  | nil => rw [runActions_nil] at h; cases h; exact hlist s [] hs
  | cons a l ih =>
    obtain ⟨t, hp, ht⟩ := (runActions_cons_next s s' a l).mp h
    exact ih t (hperform a _ t (hlist s l hs) hp) ht

/-! ### The writers of `d_err` (10_state.md R22) -/

/-- A recorded error outlasts every further DEC_CHAR. -/
theorem decCharRule_keeps_err (c : Nat) (d : Dec) (h : d.dErr = true) :
    (decCharRule c d).dErr = true := by
  rw [decCharRule_of_err c d h, decAdvance_dErr, h]

theorem decBeatRule_sets_err (i : Instr) (d : Dec) (h : d.dErr = false)
    (h' : (decBeatRule i d).dErr = true) : ∃ c, i = .decChar c := by
  cases i with
  | decChar c => exact ⟨c, rfl⟩
  | decCharLast _ | decEnd => cases h'
  | _ => exact absurd h' (by simp [decBeatRule, decNopRule, h])

theorem decBeatRule_clears_err (i : Instr) (d : Dec) (h : d.dErr = true)
    (h' : (decBeatRule i d).dErr = false) : i = .decEnd ∨ ∃ c, i = .decCharLast c := by
  cases i with
  | decChar c => exact absurd h' (by simp [decBeatRule, decCharRule_keeps_err c d h])
  | decCharLast c => exact .inr ⟨c, rfl⟩
  | decEnd => exact .inl rfl
  | _ => exact absurd h' (by simp [decBeatRule, decNopRule, h])

/-- An action that changes `d_err` pushes a DEC beat or is RESET. -/
theorem perform_writes_err (a : HostAction) (s t : State) (h : perform a s = .next t)
    (hne : t.dec.dErr ≠ s.dec.dErr) :
    (∃ dw i, a = .pushD dw ∧ decodeDec s.cfg dw = .ok i ∧ t.dec = decBeatRule i s.dec) ∨
      (a = .reset ∧ t.dec = Dec.reset) := by
  obtain ⟨_, _, -, -, rfl⟩ | ⟨dw, i, ha, hd, rfl⟩ | ⟨_, _, -, -, rfl⟩ | ⟨_, _, -, -, rfl⟩ |
    ⟨ha, rfl⟩ := perform_next_effect a s t h
  case inr.inl => exact .inl ⟨dw, i, ha, hd, rfl⟩
  case inr.inr.inr.inr => exact .inr ⟨ha, rfl⟩
  all_goals exact absurd rfl hne

/-- A step that changes `d_err` took a DEC beat or RESET from the host. -/
theorem step_writes_err (s s' : State) (h : step s = .next s') (hne : s'.dec.dErr ≠ s.dec.dErr) :
    (∃ dw i, s.env.actions.head? = some (.pushD dw) ∧ decodeDec s.cfg dw = .ok i ∧
      s'.dec = decBeatRule i s.dec) ∨
    (s.env.actions.head? = some .reset ∧ s'.dec = Dec.reset) := by
  obtain ⟨-, rfl⟩ | ⟨a, rest, ha, hp⟩ := step_next_cases s s' h
  · exact absurd rfl hne
  · rw [ha]
    obtain ⟨dw, i, rfl, hd, hs'⟩ | ⟨rfl, hs'⟩ := perform_writes_err a _ s' hp hne
    · exact .inl ⟨dw, i, rfl, hd, hs'⟩
    · exact .inr ⟨rfl, hs'⟩

/-! ### Faults (60_exceptions.md R110) -/

/-- Accepting an ENC beat faults exactly when the unit's rule does, while ENC is ready. -/
theorem acceptEnc_fault (s : State) (f : Fault) (rule : Enc → Except Fault Enc) :
    acceptEnc s rule = .fault f ↔ s.encInReady = true ∧ rule s.enc = .error f := by
  unfold acceptEnc
  split
  · rename_i h
    cases rule s.enc <;> simp [h]
  · rename_i h
    simp [h]

theorem acceptDec_ne_fault (s : State) (f : Fault) (rule : Dec → Dec) :
    acceptDec s rule ≠ .fault f := by
  unfold acceptDec
  split <;> simp

theorem popEnc_ne_fault (s : State) (f : Fault) : popEnc s ≠ .fault f := by
  unfold popEnc
  split <;> simp

theorem popDec_ne_fault (s : State) (f : Fault) : popDec s ≠ .fault f := by
  unfold popDec
  split <;> simp

/-- R64's case distinction fails exactly at `e_cnt` = 3. -/
theorem encByteRule_error (b : Byte) (u : Enc) (f : Fault) :
    encByteRule b u = .error f ↔ u.eCnt = 3#2 := by
  cases f
  unfold encByteRule
  rcases dPos_cases u.eCnt with hc | hc | hc | hc <;> simp [hc]

/-- R66's case distinction fails exactly at `e_cnt` = 3. -/
theorem encEndRule_error (u : Enc) (f : Fault) : encEndRule u = .error f ↔ u.eCnt = 3#2 := by
  cases f
  unfold encEndRule encFlush
  rcases dPos_cases u.eCnt with hc | hc | hc | hc <;> simp [hc]

/-- R64 leaves a legal `e_cnt`, so R65 fails only where R64 does. -/
theorem encByteLastRule_error (b : Byte) (u : Enc) (f : Fault) :
    encByteLastRule b u = .error f ↔ u.eCnt = 3#2 := by
  rw [← encByteRule_error b u f]
  unfold encByteLastRule
  cases h : encByteRule b u with
  | error g => simp
  | ok v =>
    have hlegal : v.eCnt ≠ 3#2 := by
      obtain ⟨-, rfl⟩ | ⟨-, rfl⟩ | ⟨-, rfl⟩ := (encByteRule_ok b u v).mp h <;> simp
    simp [encEndRule_error, hlegal]

theorem encBeatRule_ne_error (i : Instr) (u : Enc) (f : Fault) (hu : u.I1) :
    encBeatRule i u ≠ .error f := by
  cases i with
  | encByte b => exact mt (encByteRule_error b u f).mp hu
  | encByteLast b => exact mt (encByteLastRule_error b u f).mp hu
  | encEnd => exact mt (encEndRule_error u f).mp hu
  | _ => exact fun h => nomatch h

theorem exec_ne_fault (i : Instr) (s : State) (f : Fault) (hs : s.enc.I1) : exec i s ≠ .fault f := by
  cases hi : i.isEnc with
  | true =>
    rw [exec_eq_acceptEnc i s hi, ne_eq, acceptEnc_fault]
    exact fun h => encBeatRule_ne_error i s.enc f hs h.2
  | false =>
    rw [exec_eq_acceptDec i s hi]
    exact acceptDec_ne_fault s f _

theorem perform_ne_fault (a : HostAction) (s : State) (f : Fault) (hs : s.enc.I1) :
    perform a s ≠ .fault f := by
  cases a with
  | pushE ew => exact exec_ne_fault _ s f hs
  | pushD dw =>
    simp only [perform]
    cases decodeDec s.cfg dw with
    | ok i => exact exec_ne_fault i s f hs
    | error e => cases e; simp
  | popE => exact popEnc_ne_fault s f
  | popD => exact popDec_ne_fault s f
  | reset => simp [perform]

/-! ### The statements of 10_state.md -/

/-- Settles O1: R28's table is `Enc.reset` and `Dec.reset`. -/
theorem resetGivesEveryRegisterItsValue : Obligations.ResetGivesEveryRegisterItsValue :=
  ⟨rfl, rfl⟩

/-- Settles O42: both units are at their reset values, and an empty queue holds no ill-formed word. -/
theorem invariantsHoldAtReset : Obligations.InvariantsHoldAtReset :=
  ⟨resetBlock_inv State.reset (by decide), rfl, rfl⟩

/-- Settles O30: each output of R19 by the definition of its queue or register. -/
theorem statusOutputs : Obligations.StatusOutputs := by
  intro s
  refine ⟨hasRoom_iff _ _, hasRoom_iff _ _, ?_, ?_, ?_, ?_, ?_, ?_, rfl, rfl⟩
  · simp [State.encOutValid, List.length_pos_iff]
  · simp [State.decOutValid, List.length_pos_iff]
  · intro w q hq; simp [State.encOutData, hq]
  · intro hq; simp [State.encOutData, hq]
  · intro w q hq; simp [State.decOutData, hq]
  · intro hq; simp [State.decOutData, hq]

/-- Settles O22: the three register transfers that read `e_cnt` fail at 3. -/
theorem illegalEncCountStopsTheBeat : Obligations.IllegalEncCountStopsTheBeat := by
  intro s b hready hc
  exact ⟨(acceptEnc_fault s _ _).mpr ⟨hready, (encByteRule_error b s.enc _).mpr hc⟩,
    (acceptEnc_fault s _ _).mpr ⟨hready, (encByteLastRule_error b s.enc _).mpr hc⟩,
    (acceptEnc_fault s _ _).mpr ⟨hready, (encEndRule_error s.enc _).mpr hc⟩⟩

/-- Settles O46: the only fault is an ENC beat's at `e_cnt` = 3. -/
theorem noStepFaultsWithALegalCount : Obligations.NoStepFaultsWithALegalCount := by
  intro s f hs
  unfold step takeAction
  cases s.env.actions with
  | nil => simp
  | cons a rest => exact perform_ne_fault a (s.withActions rest) f hs

/-- Settles O7: no action writes the parameters or the actions that are still pending. -/
theorem stepTakesOneActionAndKeepsParameters :
    Obligations.StepTakesOneActionAndKeepsParameters := by
  intro s s' h
  obtain ⟨hnil, rfl⟩ | ⟨a, rest, ha, hp⟩ := step_next_cases s s' h
  · simp [hnil]
  · rw [ha]
    exact perform_keeps_cfg_actions a (s.withActions rest) s' hp

/-- Settles O37: a beat is accepted as its own unit's register transfer. -/
theorem beatsWriteOnlyTheirOwnUnit : Obligations.BeatsWriteOnlyTheirOwnUnit := by
  intro i s s' h
  cases hi : i.isEnc with
  | true =>
    rw [exec_eq_acceptEnc i s hi, acceptEnc_next] at h
    obtain ⟨-, u, -, rfl⟩ := h
    simp
  | false =>
    rw [exec_eq_acceptDec i s hi, acceptDec_next] at h
    obtain ⟨-, rfl⟩ := h
    simp

/-- Settles O29: only DEC beats and RESET write `d_err`, and of the DEC beats DEC_CHAR keeps it set while
DEC_END and DEC_CHAR_LAST leave it clear. -/
theorem errorFlagHasOnlyItsWriters : Obligations.ErrorFlagHasOnlyItsWriters := by
  intro s s' h
  constructor
  · intro hclear hset
    obtain ⟨dw, i, ha, hd, hs'⟩ | ⟨-, hs'⟩ := step_writes_err s s' h (by simp [hclear, hset])
    · obtain ⟨c, rfl⟩ := decBeatRule_sets_err i s.dec hclear (hs' ▸ hset)
      exact ⟨dw, c, ha, hd⟩
    · rw [hs'] at hset
      cases hset
  · intro hset hclear
    obtain ⟨dw, i, ha, hd, hs'⟩ | ⟨ha, -⟩ := step_writes_err s s' h (by simp [hclear, hset])
    · exact .inr ⟨dw, i, ha, hd, decBeatRule_clears_err i s.dec hset (hs' ▸ hclear)⟩
    · exact .inl ha

/-- Settles O43: an idle step changes nothing, and every action keeps the invariants. -/
theorem everyStepKeepsTheInvariants : Obligations.EveryStepKeepsTheInvariants := by
  intro s s' hs h
  obtain ⟨-, rfl⟩ | ⟨a, rest, -, hp⟩ := step_next_cases s s' h
  · exact hs
  · exact perform_keeps_inv a (s.withActions rest) s' hs hp

/-- Settles O44, by induction on the run: the reset state meets the invariants with every legal
parameter set, and every action keeps them. -/
theorem everyReachableStateMeetsTheInvariants :
    Obligations.EveryReachableStateMeetsTheInvariants := by
  intro p acts s' hp h
  exact runActions_keeps State.Inv (fun _ _ hs => hs) perform_keeps_inv acts _ s'
    (resetBlock_inv { State.reset with cfg := p } hp) h

end Sys2Proof.Machine

/-! ### The two look-up ROMs (20_memory.md R31 to R36) -/

namespace Sys2Proof.Machine

/-- R31's formula: in which range an index lies, and the code ALPHA gives there. -/
theorem alpha_toNat_cases (i : Sextet) :
    (i.toNat ≤ 25 ∧ (alpha i).toNat = 0x41 + i.toNat) ∨
    (26 ≤ i.toNat ∧ i.toNat ≤ 51 ∧ (alpha i).toNat = 0x61 + (i.toNat - 26)) ∨
    (52 ≤ i.toNat ∧ i.toNat ≤ 61 ∧ (alpha i).toNat = 0x30 + (i.toNat - 52)) ∨
    (i.toNat = 62 ∧ (alpha i).toNat = 0x2B) ∨ (i.toNat = 63 ∧ (alpha i).toNat = 0x2F) := by
  revert i; decide

/-- The ranges of R31's formula do not meet, so a code comes from one index only. -/
theorem alpha_toNat_injective (i j : Sextet) (h : (alpha i).toNat = (alpha j).toNat) : i = j := by
  apply BitVec.eq_of_toNat_eq
  have hi := alpha_toNat_cases i
  have hj := alpha_toNat_cases j
  omega

theorem alpha_toNat_ne_pad (i : Sextet) : (alpha i).toNat ≠ 0x3D := by
  have hi := alpha_toNat_cases i
  omega

/-- REV gives each of the 64 ALPHA codes its index. -/
@[simp] theorem rev_alpha (i : Sextet) : rev (alpha i).toNat = .val i := by
  revert i; decide

/-- A code with a value is ALPHA's code for that value, however wide the code is. -/
theorem eq_alpha_of_rev_val (c : Nat) (i : Sextet) (h : rev c = .val i) : c = (alpha i).toNat := by
  have hi := alpha_toNat_cases i
  unfold rev at h
  split_ifs at h <;> simp only [CharClass.val.injEq] at h <;> bv_omega

theorem rev_eq_val_iff (c : Nat) (i : Sextet) : rev c = .val i ↔ c = (alpha i).toNat :=
  ⟨eq_alpha_of_rev_val c i, fun h => h ▸ rev_alpha i⟩

theorem rev_eq_pad_iff (c : Nat) : rev c = .pad ↔ c = 0x3D := by
  constructor
  · intro h
    unfold rev at h
    split_ifs at h
    assumption
  · rintro rfl
    rfl

/-- INVALID is the class of the codes that have neither of the others. -/
theorem rev_eq_invalid_iff (c : Nat) :
    rev c = .invalid ↔ (∀ i : Sextet, rev c ≠ .val i) ∧ rev c ≠ .pad := by
  cases rev c <;> simp

/-- No code beyond REV_ROM's 128 addresses is in R34's table. -/
theorem rev_of_ge_0x80 (c : Nat) (h : 0x80 ≤ c) : rev c = .invalid := by
  rw [rev_eq_invalid_iff, Ne, rev_eq_pad_iff]
  refine ⟨fun i hv => ?_, by omega⟩
  have hc := eq_alpha_of_rev_val c i hv
  have hi := alpha_toNat_cases i
  omega

/-- R35's table, address by address, is R34's. -/
theorem decodeRevEntry_revRom (c : Nat) (h : c < 0x80) :
    decodeRevEntry (revRom.getD c 0x80) = rev c := by
  revert c; decide

/-- An address within REV_ROM is its own low seven bits. -/
theorem natField_of_lt_0x80 (c : Nat) (h : c < 0x80) : natField c 0 7 = c := by
  unfold natField
  omega

end Sys2Proof.Machine

/-! ### Group words (20_memory.md R39) -/

namespace Sys2Proof.Machine

theorem toNat_append_eq_add {m n : Nat} (x : BitVec m) (y : BitVec n) :
    (x ++ y).toNat = x.toNat * 2 ^ n + y.toNat := by
  rw [BitVec.toNat_append, ← Nat.shiftLeft_add_eq_or_of_lt y.isLt, Nat.shiftLeft_eq]

theorem groupWord_toNat (b0 b1 b2 : Byte) :
    (groupWord b0 b1 b2).toNat = b0.toNat * 2 ^ 16 + b1.toNat * 2 ^ 8 + b2.toNat := by
  simp only [groupWord, toNat_append_eq_add]
  omega

theorem sextetWord_toNat (v0 v1 v2 v3 : Sextet) :
    (sextetWord v0 v1 v2 v3).toNat =
      v0.toNat * 2 ^ 18 + v1.toNat * 2 ^ 12 + v2.toNat * 2 ^ 6 + v3.toNat := by
  simp only [sextetWord, toNat_append_eq_add]
  omega

/-- The four indices of a group word, side by side, are the word. -/
@[simp] theorem sextetWord_sextetOf (w : GroupWord) :
    sextetWord (sextetOf w 0) (sextetOf w 1) (sextetOf w 2) (sextetOf w 3) = w := by
  apply BitVec.eq_of_toNat_eq
  simp only [sextetWord_toNat, sextetOf, BitVec.extractLsb'_toNat, Nat.shiftRight_eq_div_pow]
  omega

/-- The three bytes of a group word, side by side, are the word. -/
@[simp] theorem groupWord_byteOf (w : GroupWord) :
    groupWord (byteOf w 0) (byteOf w 1) (byteOf w 2) = w := by
  apply BitVec.eq_of_toNat_eq
  simp only [groupWord_toNat, byteOf, BitVec.extractLsb'_toNat, Nat.shiftRight_eq_div_pow]
  omega

end Sys2Proof.Machine

/-! ### Independent units (20_memory.md R46) -/

namespace Sys2Proof.Machine

/-- What an action on ENC does to the unit and gives to the host. It reads OUTQ_DEPTH and ENC, nothing
else (R46). -/
def EncMove (p : Params) (u : Enc) (a : HostAction) (v : Enc) (got : List EncOutWord) : Prop :=
  match a with
  | .pushE ew =>
    hasRoom p u.eQ.length = true ∧ encBeatRule (decodeEnc ew) u = .ok v ∧ got = []
  | .popE => ∃ w q, u.eQ = w :: q ∧ v = { u with eQ := q } ∧ got = [w]
  | _ => False

/-- What an action on DEC does to the unit and gives to the host. It reads the parameters and DEC, nothing
else (R46). -/
def DecMove (p : Params) (d : Dec) (a : HostAction) (e : Dec) (got : List DecOutWord) : Prop :=
  match a with
  | .pushD dw =>
    hasRoom p d.dQ.length = true ∧
      ∃ i, decodeDec p dw = .ok i ∧ e = decBeatRule i d ∧ got = []
  | .popD => ∃ w q, d.dQ = w :: q ∧ e = { d with dQ := q } ∧ got = [w]
  | _ => False

/-- The state with another ENC unit and with some more of its beats received by the host. -/
def State.moveEnc (s : State) (v : Enc) (got : List EncOutWord) : State :=
  (s.withEnc v).withEnv { s.env with encGot := s.env.encGot ++ got }

/-- The state with another DEC unit and with some more of its beats received by the host. -/
def State.moveDec (s : State) (e : Dec) (got : List DecOutWord) : State :=
  (s.withDec e).withEnv { s.env with decGot := s.env.decGot ++ got }

/-- A beat that gives the host nothing writes the unit only. -/
theorem State.moveEnc_nil (s : State) (v : Enc) : s.moveEnc v [] = s.withEnc v := by
  simp [State.moveEnc, State.withEnc, State.withEnv]

theorem State.moveDec_nil (s : State) (e : Dec) : s.moveDec e [] = s.withDec e := by
  simp [State.moveDec, State.withDec, State.withEnv]

/-- An action on ENC leads to a next state exactly by a move of the unit. -/
theorem perform_enc_next (a : HostAction) (s t : State) (ha : (∃ ew, a = .pushE ew) ∨ a = .popE) :
    perform a s = .next t ↔ ∃ v got, EncMove s.cfg s.enc a v got ∧ t = s.moveEnc v got := by
  obtain ⟨ew, rfl⟩ | rfl := ha
  · rw [perform, exec_eq_acceptEnc _ _ (decodeEnc_isEnc ew), acceptEnc_next]
    simp only [EncMove]
    constructor
    · rintro ⟨hready, v, hv, rfl⟩
      exact ⟨v, [], ⟨hready, hv, rfl⟩, (s.moveEnc_nil v).symm⟩
    · rintro ⟨v, got, ⟨hready, hv, rfl⟩, rfl⟩
      exact ⟨hready, v, hv, s.moveEnc_nil v⟩
  · rw [perform, popEnc_next]
    constructor
    · rintro ⟨w, q, hq, rfl⟩
      exact ⟨_, _, ⟨w, q, hq, rfl, rfl⟩, rfl⟩
    · rintro ⟨v, got, ⟨w, q, hq, rfl, rfl⟩, rfl⟩
      exact ⟨w, q, hq, rfl⟩

/-- An action on DEC leads to a next state exactly by a move of the unit. -/
theorem perform_dec_next (b : HostAction) (s t : State) (hb : (∃ dw, b = .pushD dw) ∨ b = .popD) :
    perform b s = .next t ↔ ∃ e got, DecMove s.cfg s.dec b e got ∧ t = s.moveDec e got := by
  obtain ⟨dw, rfl⟩ | rfl := hb
  · simp only [perform, DecMove]
    cases hd : decodeDec s.cfg dw with
    | error err => cases err; simp
    | ok i =>
      simp only [exec_eq_acceptDec _ _ (decodeDec_isEnc _ _ _ hd), acceptDec_next]
      constructor
      · rintro ⟨hready, rfl⟩
        exact ⟨_, [], ⟨hready, i, rfl, rfl, rfl⟩, (s.moveDec_nil _).symm⟩
      · rintro ⟨e, got, ⟨hready, j, hj, rfl, rfl⟩, rfl⟩
        cases hj
        exact ⟨hready, s.moveDec_nil _⟩
  · rw [perform, popDec_next]
    constructor
    · rintro ⟨w, q, hq, rfl⟩
      exact ⟨_, _, ⟨w, q, hq, rfl, rfl⟩, rfl⟩
    · rintro ⟨e, got, ⟨w, q, hq, rfl, rfl⟩, rfl⟩
      exact ⟨w, q, hq, rfl⟩

/-- The moves of the two units write different fields, so their order does not matter. -/
theorem State.moveEnc_moveDec_comm (s : State) (l : List HostAction) (v : Enc) (e : Dec)
    (got : List EncOutWord) (got' : List DecOutWord) :
    ((s.moveEnc v got).withActions l).moveDec e got' =
      ((s.moveDec e got').withActions l).moveEnc v got := rfl

/-- A run of one action performs it, with nothing pending after it. -/
theorem runActions_singleton_next (s s' : State) (a : HostAction) :
    runActions s [a] = .next s' ↔ perform a (s.withActions []) = .next s' := by
  have hdone (t : State) (ht : perform a (s.withActions []) = .next t) :
      runActions t [] = .next t := by
    have hnil : t.env.actions = [] := (perform_keeps_cfg_actions _ _ _ ht).2
    rw [runActions_nil, ← hnil, State.withActions_self]
  rw [runActions_cons_next]
  constructor
  · rintro ⟨t, ht, hs⟩
    rwa [← Host.Outcome.next.inj ((hdone t ht).symm.trans hs)]
  · exact fun h => ⟨s', h, hdone s' h⟩

end Sys2Proof.Machine

/-! ### The statements of 20_memory.md -/

namespace Sys2Proof.Machine

/-- Settles O14: each class of R34 by its own lemma. -/
theorem revInvertsAlpha : Obligations.RevInvertsAlpha := by
  intro c
  refine ⟨rev_eq_val_iff c, rev_eq_pad_iff c, ?_⟩
  simp only [rev_eq_invalid_iff, ne_eq, rev_eq_val_iff, rev_eq_pad_iff]

/-- Settles O15: below 0x80 the ROM is R34's table, and from 0x80 on both are INVALID. -/
theorem revRomWithRangeCheckIsRev : Obligations.RevRomWithRangeCheckIsRev := by
  refine ⟨fun c => ?_, rfl, by decide⟩
  unfold revByRom
  split
  · next h => exact (rev_of_ge_0x80 c h).symm
  · next h =>
    have hc : c < 0x80 := Nat.lt_of_not_le h
    rw [natField_of_lt_0x80 c hc, decodeRevEntry_revRom c hc]

/-- Settles O16: the digits of both words, and no bit of a word is lost by cutting it up either way. -/
theorem groupBitsAreMostSignificantFirst : Obligations.GroupBitsAreMostSignificantFirst :=
  ⟨fun b0 b1 b2 => ⟨groupWord_toNat b0 b1 b2, sextetWord_sextetOf _⟩,
    fun v0 v1 v2 v3 => ⟨sextetWord_toNat v0 v1 v2 v3, _, _, _, rfl, groupWord_byteOf _⟩⟩

/-- Settles O38: a beat's acceptance and register transfer read the parameters and its own unit. -/
theorem unitsDoNotReadEachOther : Obligations.UnitsDoNotReadEachOther := by
  intro i s t s' hcfg h
  constructor
  · intro hi henc
    rw [exec_eq_acceptEnc i s hi, acceptEnc_next] at h
    obtain ⟨hready, u, hu, rfl⟩ := h
    have hready' : t.encInReady = true := by
      rwa [State.encInReady, ← hcfg, ← henc]
    refine ⟨t.withEnc u, ?_, rfl⟩
    rw [exec_eq_acceptEnc i t hi, acceptEnc_next]
    exact ⟨hready', u, henc ▸ hu, rfl⟩
  · intro hi hdec
    rw [exec_eq_acceptDec i s hi, acceptDec_next] at h
    obtain ⟨hready, rfl⟩ := h
    have hready' : t.decInReady = true := by
      rwa [State.decInReady, ← hcfg, ← hdec]
    refine ⟨t.withDec (decBeatRule i t.dec), ?_, by simp [hdec]⟩
    rw [exec_eq_acceptDec i t hi, acceptDec_next]
    exact ⟨hready', rfl⟩

/-- Settles O39: in both orders the two units make their own moves, and those commute. -/
theorem actionsOnDifferentUnitsCommute : Obligations.ActionsOnDifferentUnitsCommute := by
  intro s s' a b ha hb
  simp only [runActions_cons_next s, runActions_singleton_next, perform_enc_next a _ _ ha,
    perform_dec_next b _ _ hb]
  constructor
  · rintro ⟨_, ⟨v, got, hv, rfl⟩, e, got', he, rfl⟩
    exact ⟨_, ⟨e, got', he, rfl⟩, v, got, hv, State.moveEnc_moveDec_comm _ _ _ _ _ _⟩
  · rintro ⟨_, ⟨e, got', he, rfl⟩, v, got, hv, rfl⟩
    exact ⟨_, ⟨v, got, hv, rfl⟩, e, got', he, (State.moveEnc_moveDec_comm _ _ _ _ _ _).symm⟩

/-- Settles O12: each clause is one range of `alpha_toNat_cases`. -/
theorem alphaRomFollowsItsFormula : Obligations.AlphaRomFollowsItsFormula := by
  refine ⟨rfl, fun i => ?_⟩
  have hi := alpha_toNat_cases i
  omega

/-- Settles O13: the ranges of R31's formula do not meet, and 0x3D is in none of them. -/
theorem alphaEntriesAreDistinctAndNotPad : Obligations.AlphaEntriesAreDistinctAndNotPad :=
  ⟨fun i j h => alpha_toNat_injective i j (congrArg BitVec.toNat h),
    fun i h => alpha_toNat_ne_pad i (congrArg BitVec.toNat h)⟩

end Sys2Proof.Machine

/-! ### The words of both ports by their fields (30_encoding.md R48 to R52)

Every word of a port is `{LAST, NULL, data}`, so each fact about a port is about `encWord` and `encBeat`, or
`decWord` and `decBeat`, with two flags and a data field. -/

namespace Sys2Proof.Machine

/-- The value of the two bits `{LAST, NULL}`, which select the kind of a beat (R52). -/
def opcode (last null : Bool) : Nat := 2 * last.toNat + null.toNat

theorem opcode_lt (last null : Bool) : opcode last null < 4 := by
  revert last null; decide

theorem opcode_last (last null : Bool) : (opcode last null / 2 % 2 == 1) = last := by
  revert last null; decide

theorem opcode_null (last null : Bool) : (opcode last null % 2 == 1) = null := by
  revert last null; decide

theorem opcode_and_three (last null : Bool) : opcode last null &&& 3 = opcode last null := by
  revert last null; decide

theorem exists_opcode_eq (q : Nat) (hq : q < 4) : ∃ last null, opcode last null = q := by
  revert q; decide

theorem encWord_toNat (last null : Bool) (b : Byte) :
    (encWord last null b).toNat = opcode last null * 2 ^ 8 + b.toNat := by
  simp only [encWord, toNat_append_eq_add, BitVec.toNat_ofBool, opcode]
  omega

theorem decWord_eq (p : Params) (last null : Bool) (c : Nat) :
    decWord p last null c = opcode last null * 2 ^ p.charW + c := by
  simp only [decWord, opcode, pow_succ]
  ring

theorem exists_encWord_eq (ew : EncInWord) : ∃ last null b, ew = encWord last null b := by
  obtain ⟨last, null, hq⟩ := exists_opcode_eq (ew.toNat / 2 ^ 8) (by omega)
  refine ⟨last, null, BitVec.ofNat 8 ew.toNat, BitVec.eq_of_toNat_eq ?_⟩
  rw [encWord_toNat, hq, BitVec.toNat_ofNat]
  omega

theorem exists_decWord_eq (p : Params) (dw : Nat) (h : dw < 2 ^ (p.charW + 2)) :
    ∃ last null c, c < 2 ^ p.charW ∧ dw = decWord p last null c := by
  have hpos := Nat.two_pow_pos p.charW
  have hq : dw / 2 ^ p.charW < 4 := by
    rw [Nat.div_lt_iff_lt_mul hpos]
    simpa [pow_add, Nat.mul_comm] using h
  obtain ⟨last, null, hq⟩ := exists_opcode_eq _ hq
  exact ⟨last, null, dw % 2 ^ p.charW, Nat.mod_lt _ hpos, by rw [decWord_eq, hq, Nat.div_add_mod']⟩

/-- The ENC decoder reads back the fields of a word (R48, R49). -/
theorem decodeEnc_encWord (last null : Bool) (b : Byte) :
    decodeEnc (encWord last null b) = encBeat last null b := by
  have hdata : (encWord last null b).extractLsb' 0 8 = b := BitVec.extractLsb'_append_eq_right
  have hlast : (encWord last null b).getLsbD 9 = last := by
    rw [encWord, BitVec.getLsbD_append, if_neg (by decide), BitVec.getLsbD_append, if_neg (by decide)]
    simp
  have hnull : (encWord last null b).getLsbD 8 = null := by
    rw [encWord, BitVec.getLsbD_append, if_neg (by decide), BitVec.getLsbD_append, if_pos (by decide)]
    simp
  rw [decodeEnc, hdata, hlast, hnull]

theorem encBeat_isEnc (last null : Bool) (b : Byte) : (encBeat last null b).isEnc = true := by
  cases last <;> cases null <;> rfl

theorem encBeat_wf (p : Params) (last null : Bool) (b : Byte) :
    (encBeat last null b).wf p = true := by
  cases last <;> cases null <;> rfl

theorem decBeat_wf (p : Params) (last null : Bool) (c : Nat) (hc : c < 2 ^ p.charW) :
    (decBeat last null c).wf p = true := by
  cases last <;> cases null <;> simp [decBeat, Instr.wf, hc]

/-- The word of a DEC beat fits the port (R59). -/
theorem decWord_lt (p : Params) (last null : Bool) (c : Nat) (hc : c < 2 ^ p.charW) :
    decWord p last null c < 2 ^ (p.charW + 2) :=
  Laws.decWord_fits p .decEnd rfl last null c hc

/-- The DEC decoder reads back the fields of a word, for every CHAR_W (R50, R51). -/
theorem decodeDec_decWord (p : Params) (last null : Bool) (c : Nat) (hc : c < 2 ^ p.charW) :
    decodeDec p (decWord p last null c) = .ok (decBeat last null c) := by
  have hop : decWord p last null c / 2 ^ p.charW = opcode last null := by
    rw [decWord_eq, Nat.mul_comm, Nat.mul_add_div (Nat.two_pow_pos _), Nat.div_eq_of_lt hc,
      Nat.add_zero]
  have hdata : natField (decWord p last null c) 0 p.charW = c := by
    rw [natField, pow_zero, Nat.div_one, decWord_eq, Nat.mul_comm, Nat.mul_add_mod,
      Nat.mod_eq_of_lt hc]
  have hlast : (natField (decWord p last null c) (p.charW + 1) 1 == 1) = last := by
    rw [natField, pow_succ, ← Nat.div_div_eq_div_mul, hop, pow_one, opcode_last]
  have hnull : (natField (decWord p last null c) p.charW 1 == 1) = null := by
    rw [natField, hop, pow_one, opcode_null]
  rw [decodeDec, if_pos (decWord_lt p last null c hc), hdata, hlast, hnull]

/-- An ENC beat and its word have the same fields, but for a data field that is ignored (R52, R53). -/
theorem exists_encode_eq_encWord (p : Params) (i : Instr) (hi : i.isEnc = true) :
    ∃ last null b, i = encBeat last null b ∧ encode p i = .enc (encWord last null b) := by
  cases i with
  | encByte b => exact ⟨false, false, b, rfl, rfl⟩
  | encByteLast b => exact ⟨true, false, b, rfl, rfl⟩
  | encEnd => exact ⟨true, true, 0, rfl, rfl⟩
  | encNop => exact ⟨false, true, 0, rfl, rfl⟩
  | decChar _ | decCharLast _ | decEnd | decNop => cases hi

/-- A DEC beat and its word have the same fields, but for a data field that is ignored (R52, R53). -/
theorem exists_encode_eq_decWord (p : Params) (i : Instr) (hi : i.isEnc = false) :
    ∃ last null c, i = decBeat last null c ∧ encode p i = .dec (decWord p last null c) ∧
      (i.wf p = true → c < 2 ^ p.charW) := by
  cases i with
  | decChar c => exact ⟨false, false, c, rfl, rfl, of_decide_eq_true⟩
  | decCharLast c => exact ⟨true, false, c, rfl, rfl, of_decide_eq_true⟩
  | decEnd => exact ⟨true, true, 0, rfl, rfl, fun _ => Nat.two_pow_pos _⟩
  | decNop => exact ⟨false, true, 0, rfl, rfl, fun _ => Nat.two_pow_pos _⟩
  | encByte _ | encByteLast _ | encEnd | encNop => cases hi

/-! ### Match and mask (30_encoding.md R52) -/

theorem opMatch_encBeat (p : Params) (last null : Bool) (b : Byte) :
    opMatch p (encBeat last null b) = (opcode last null <<< 8, 3 <<< 8) := by
  cases last <;> cases null <;> rfl

theorem opMatch_decBeat (p : Params) (last null : Bool) (c : Nat) :
    opMatch p (decBeat last null c) = (opcode last null <<< p.charW, 3 <<< p.charW) := by
  cases last <;> cases null <;> simp [decBeat, opMatch, opcode]

/-- A mask above the data field reads nothing of it. -/
theorem mul_two_pow_add_and_shiftLeft (k o d m : Nat) (hd : d < 2 ^ k) :
    (o * 2 ^ k + d) &&& (m <<< k) = (o &&& m) <<< k := by
  apply Nat.eq_of_testBit_eq
  intro j
  rw [Nat.mul_comm, Nat.testBit_and, Nat.testBit_two_pow_mul_add o hd, Nat.testBit_shiftLeft,
    Nat.testBit_shiftLeft, Nat.testBit_and]
  by_cases hj : j < k
  · simp [hj, Nat.not_le.mpr hj]
  · simp [hj, Nat.le_of_not_lt hj]

/-- A kind accepts a word exactly when it has the word's two flags. -/
theorem opcode_accepts_iff (k d : Nat) (hd : d < 2 ^ k) (last null last' null' : Bool) :
    (opcode last null * 2 ^ k + d) &&& (3 <<< k) = opcode last' null' <<< k ↔
      (opcode last' null' <<< k, 3 <<< k) = (opcode last null <<< k, 3 <<< k) := by
  rw [mul_two_pow_add_and_shiftLeft k _ d 3 hd, opcode_and_three, Prod.mk.injEq, and_iff_left rfl,
    eq_comm]

/-! ### The beats a list of encoded words offers -/

/-- The words of ENC beats decode to them, and those of DEC beats are no ENC words. -/
theorem encBeatsOf_map_pushOf (p : Params) (l : List Instr) :
    encBeatsOf (l.map (pushOf p)) = l.filter Instr.isEnc := by
  induction l with
  | nil => rfl
  | cons i l ih =>
    cases hi : i.isEnc with
    | true =>
      obtain ⟨last, null, b, hb, he⟩ := exists_encode_eq_encWord p i hi
      simp [pushOf, he, HostAction.ofWord, encBeatsOf, decodeEnc_encWord, ← hb, hi, ← ih]
    | false =>
      obtain ⟨last, null, c, -, he, -⟩ := exists_encode_eq_decWord p i hi
      simp [pushOf, he, HostAction.ofWord, encBeatsOf, hi, ← ih]

/-- The words of well-formed DEC beats decode to them, and those of ENC beats are no DEC words. -/
theorem decBeatsOf_map_pushOf (p : Params) (l : List Instr) (hl : ∀ i ∈ l, i.wf p = true) :
    decBeatsOf p (l.map (pushOf p)) = l.filter (!·.isEnc) := by
  induction l with
  | nil => rfl
  | cons i l ih =>
    obtain ⟨hwf, hl⟩ := List.forall_mem_cons.mp hl
    cases hi : i.isEnc with
    | true =>
      obtain ⟨last, null, b, -, he⟩ := exists_encode_eq_encWord p i hi
      simp [pushOf, he, HostAction.ofWord, decBeatsOf, hi, ← ih hl]
    | false =>
      obtain ⟨last, null, c, hb, he, hc⟩ := exists_encode_eq_decWord p i hi
      simp [pushOf, he, HostAction.ofWord, decBeatsOf, decodeDec_decWord p _ _ c (hc hwf), ← hb, hi,
        ← ih hl]

end Sys2Proof.Machine

/-! ### The assembler's operands and messages (30_encoding.md R60, R61) -/

namespace Sys2Proof.Machine

theorem asmByte_of_lt (n : Nat) (h : n < 256) : asmByte n = .ok (BitVec.ofNat 8 n) := if_pos h

theorem asmByte_of_ge (n : Nat) (h : 256 ≤ n) : asmByte n = .error .byteOutOfRange :=
  if_neg (Nat.not_lt.mpr h)

theorem asmChar_of_lt (p : Params) (n : Nat) (h : n < 2 ^ p.charW) : asmChar p n = .ok n := if_pos h

theorem asmChar_of_ge (p : Params) (n : Nat) (h : 2 ^ p.charW ≤ n) :
    asmChar p n = .error .charOutOfRange :=
  if_neg (Nat.not_lt.mpr h)

theorem encMsgBeats_of_lt (bs : List Nat) (h : ∀ n ∈ bs, n < 256) :
    encMsgBeats bs = .ok (bs.map (fun n => .encByte (BitVec.ofNat 8 n)) ++ [.encEnd]) := by
  induction bs with
  | nil => rfl
  | cons n ns ih =>
    obtain ⟨hn, hns⟩ := List.forall_mem_cons.mp h
    simp [encMsgBeats, asmByte_of_lt n hn, ih hns]

theorem decMsgBeats_of_lt (p : Params) (cs : List Nat) (h : ∀ c ∈ cs, c < 2 ^ p.charW) :
    decMsgBeats p cs = .ok (cs.map .decChar ++ [.decEnd]) := by
  induction cs with
  | nil => rfl
  | cons c cs ih =>
    obtain ⟨hc, hcs⟩ := List.forall_mem_cons.mp h
    simp [decMsgBeats, asmChar_of_lt p c hc, ih hcs]

/-- The word of an ENC beat whose byte is written as a number. -/
theorem encWord_ofNat (last null : Bool) (n : Nat) (h : n < 256) :
    encWord last null (BitVec.ofNat 8 n) = BitVec.ofNat 10 (opcode last null * 2 ^ 8 + n) := by
  have hop := opcode_lt last null
  apply BitVec.eq_of_toNat_eq
  rw [encWord_toNat, BitVec.toNat_ofNat, BitVec.toNat_ofNat]
  omega

/-! The actions that offer a beat with its data field written as a number (R60). -/

theorem pushOf_encByte (p : Params) (n : Nat) (h : n < 256) :
    pushOf p (.encByte (BitVec.ofNat 8 n)) = .pushE (BitVec.ofNat 10 n) := by
  simp [pushOf, encode, HostAction.ofWord, encWord_ofNat _ _ n h, opcode]

theorem pushOf_encByteLast (p : Params) (n : Nat) (h : n < 256) :
    pushOf p (.encByteLast (BitVec.ofNat 8 n)) = .pushE (BitVec.ofNat 10 (0x200 + n)) := by
  simp [pushOf, encode, HostAction.ofWord, encWord_ofNat _ _ n h, opcode]

@[simp] theorem pushOf_decChar (p : Params) (c : Nat) : pushOf p (.decChar c) = .pushD c := by
  simp [pushOf, encode, HostAction.ofWord, decWord_eq, opcode]

@[simp] theorem pushOf_decCharLast (p : Params) (c : Nat) :
    pushOf p (.decCharLast c) = .pushD (2 * 2 ^ p.charW + c) := by
  simp [pushOf, encode, HostAction.ofWord, decWord_eq, opcode]

@[simp] theorem pushOf_decEnd (p : Params) : pushOf p .decEnd = .pushD (3 * 2 ^ p.charW) := by
  simp [pushOf, encode, HostAction.ofWord, decWord_eq, opcode]

@[simp] theorem pushOf_decNop (p : Params) : pushOf p .decNop = .pushD (2 ^ p.charW) := by
  simp [pushOf, encode, HostAction.ofWord, decWord_eq, opcode]

end Sys2Proof.Machine

/-! ### The output words the units build are well formed (30_encoding.md R58) -/

namespace Sys2Proof.Machine

theorem alpha_isAlphaCode (i : Sextet) : isAlphaCode (alpha i) := by
  revert i; decide

theorem encLanes_eq (w : EncOutWord) :
    encLanes w = [w.extractLsb' 24 8, w.extractLsb' 16 8, w.extractLsb' 8 8, w.extractLsb' 0 8] := by
  simp [encLanes, charLanes, BitVec.extractLsb'_extractLsb'_of_le]

/-- A full group has four alphabet codes, and a padded one has 0x3D in C3 or in C2 and C3 (R63). -/
theorem encDataWord_pack_wf (w : GroupWord) (npad : Nat) : EncWordWF (encDataWord (pack w npad)) := by
  have hlanes := encLanes_encDataWord (pack w npad)
  rw [pack, charLanes_append, ← pack, encLanes_eq] at hlanes
  obtain ⟨h0, h1, h2, h3⟩ : _ ∧ _ ∧ _ ∧ _ := by simpa using hlanes
  rw [EncWordWF, if_neg (by simp), h0, h1, h2, h3]
  refine ⟨alpha_isAlphaCode _, alpha_isAlphaCode _, ?_, ?_⟩
  · by_cases hn : npad = 2
    · exact .inr (by simp [hn])
    · exact .inl (by simp [hn, alpha_isAlphaCode])
  · by_cases hn : 1 ≤ npad
    · exact .inr (by simp [hn])
    · exact .inl (by simp [hn, alpha_isAlphaCode])

theorem encEndWord_wf : EncWordWF encEndWord := by decide

theorem decEndWord_wf (st : DecStatus) : DecWordWF (decEndWord st.code) := by
  cases st <;> decide

/-- The unused lanes of a DATA beat are those from the N-th on (R56). -/
theorem decDataWord_wf (n : BitVec 2) (b0 b1 b2 : Byte) (hn : n ≠ 0#2)
    (h1 : n = 1#2 → b1 = 0#8) (h2 : n = 1#2 ∨ n = 2#2 → b2 = 0#8) :
    DecWordWF (decDataWord n b0 b1 b2) := by
  have hlow : (decDataWord n b0 b1 b2).extractLsb' 0 16 = b1 ++ b2 := by
    apply BitVec.eq_of_toNat_eq
    simp only [decDataWord, decOutWord, BitVec.extractLsb'_toNat, toNat_append_eq_add]
    omega
  have hlast : (decDataWord n b0 b1 b2).extractLsb' 0 8 = b2 := BitVec.extractLsb'_append_eq_right
  have hkind : decKind (decDataWord n b0 b1 b2) = 0#2 := decKind_decOutWord ..
  have hcount : decCount (decDataWord n b0 b1 b2) = n := decCount_decOutWord ..
  rw [DecWordWF, if_pos hkind, hcount, hlow, hlast]
  refine ⟨hn, fun h => ?_, fun h => h2 (.inr h)⟩
  rw [h1 h, h2 (.inl h)]
  rfl

/-! ### Every step keeps the queued words well formed (30_encoding.md R58) -/

/-- Every word in the ENC queue is well formed. -/
def Enc.OutWF (u : Enc) : Prop := ∀ w ∈ u.eQ, EncWordWF w

/-- Every word in the DEC queue is well formed. -/
def Dec.OutWF (d : Dec) : Prop := ∀ w ∈ d.dQ, DecWordWF w

theorem State.outWF_iff (s : State) : s.OutWF ↔ s.enc.OutWF ∧ s.dec.OutWF := by
  simp only [State.OutWF, Enc.OutWF, Dec.OutWF, List.all_eq_true, decide_eq_true_eq]

theorem Enc.OutWF.push {u : Enc} (hu : u.OutWF) {w : EncOutWord} (hw : EncWordWF w) :
    (u.push w).OutWF :=
  List.forall_mem_append.mpr ⟨hu, List.forall_mem_singleton.mpr hw⟩

theorem Dec.OutWF.push {d : Dec} (hd : d.OutWF) {w : DecOutWord} (hw : DecWordWF w) :
    (d.push w).OutWF :=
  List.forall_mem_append.mpr ⟨hd, List.forall_mem_singleton.mpr hw⟩

theorem encByteRule_keeps_outWF (b : Byte) (u v : Enc) (hu : u.OutWF) (h : encByteRule b u = .ok v) :
    v.OutWF := by
  obtain ⟨-, rfl⟩ | ⟨-, rfl⟩ | ⟨-, rfl⟩ := (encByteRule_ok b u v).mp h
  · exact hu
  · exact hu
  · exact hu.push (encDataWord_pack_wf _ 0)

theorem encEndRule_keeps_outWF (u v : Enc) (hu : u.OutWF) (h : encEndRule u = .ok v) : v.OutWF := by
  obtain ⟨t, ht, rfl⟩ := (encEndRule_ok u v).mp h
  have ht : t.OutWF := by
    obtain ⟨-, rfl⟩ | ⟨-, rfl⟩ | ⟨-, rfl⟩ := (encFlush_ok u t).mp ht
    · exact hu
    · exact hu.push (encDataWord_pack_wf _ 2)
    · exact hu.push (encDataWord_pack_wf _ 1)
  exact ht.push encEndWord_wf

theorem encBeatRule_keeps_outWF (i : Instr) (u v : Enc) (hu : u.OutWF) (h : encBeatRule i u = .ok v) :
    v.OutWF := by
  cases i with
  | encByte b => exact encByteRule_keeps_outWF b u v hu h
  | encByteLast b =>
    obtain ⟨t, ht, hv⟩ := (encByteLastRule_ok b u v).mp h
    exact encEndRule_keeps_outWF t v (encByteRule_keeps_outWF b u t hu ht) hv
  | encEnd => exact encEndRule_keeps_outWF u v hu h
  | _ => cases h; exact hu

/-- A full group has N = 3 and no unused lane. -/
theorem decCharRule_keeps_outWF (c : Nat) (d : Dec) (hd : d.OutWF) : (decCharRule c d).OutWF := by
  obtain h | ⟨hp, hclean, hval⟩ := decCharRule_pushes_only_full_group c d
  · rwa [Dec.OutWF, h]
  · obtain ⟨v, hc⟩ := (CharClass.isVal_iff _).mp hval
    obtain ⟨he, hv, hp2⟩ : d.dErr = false ∧ d.dHoldValid = false ∧ d.dPad2 = false := by
      simpa [Dec.Spoiled, hp] using hclean
    rw [decCharRule_val_at3 c v _ _ _ d he hv hp hp2 hc rfl]
    exact hd.push (decDataWord_wf 3 _ _ _ (by decide) (by simp) (by simp))

/-- A held group has N = 1 or 2 by I6, and its unused byte is 0 by I8. -/
theorem decEndRule_keeps_outWF (d : Dec) (hinv : d.Inv) (hd : d.OutWF) : (decEndRule d).OutWF := by
  obtain ⟨-, -, h6, -, h8, -⟩ := hinv
  have hflush : (decFlush d).OutWF := by
    obtain h | ⟨-, hv, h⟩ := decFlush_cases d <;> rw [h]
    · exact hd
    · obtain ⟨-, -, hn⟩ := h6 hv
      have hne : d.dHoldN ≠ 0#2 := by rcases hn with hn | hn <;> simp [hn]
      exact hd.push (decDataWord_wf _ _ _ 0 hne h8 fun _ => rfl)
  exact hflush.push (decEndWord_wf _)

theorem decBeatRule_keeps_outWF (i : Instr) (d : Dec) (hinv : d.Inv) (hd : d.OutWF) :
    (decBeatRule i d).OutWF := by
  cases i with
  | decChar c => exact decCharRule_keeps_outWF c d hd
  | decCharLast c =>
    exact decEndRule_keeps_outWF _ (decCharRule_keeps_inv c d hinv) (decCharRule_keeps_outWF c d hd)
  | decEnd => exact decEndRule_keeps_outWF d hinv hd
  | _ => exact hd

theorem perform_keeps_outWF (a : HostAction) (s t : State) (hinv : s.Inv) (hs : s.OutWF)
    (h : perform a s = .next t) : t.OutWF := by
  obtain ⟨-, -, hdec, -⟩ := hinv
  rw [State.outWF_iff] at hs ⊢
  obtain ⟨hsE, hsD⟩ := hs
  obtain ⟨ew, u, -, hu, rfl⟩ | ⟨dw, i, -, -, rfl⟩ | ⟨w, q, -, hq, rfl⟩ | ⟨w, q, -, hq, rfl⟩ |
    ⟨-, rfl⟩ := perform_next_effect a s t h
  · exact ⟨encBeatRule_keeps_outWF _ _ u hsE hu, hsD⟩
  · exact ⟨hsE, decBeatRule_keeps_outWF i _ hdec hsD⟩
  · exact ⟨fun x hx => hsE x (hq ▸ List.mem_cons_of_mem w hx), hsD⟩
  · exact ⟨hsE, fun x hx => hsD x (hq ▸ List.mem_cons_of_mem w hx)⟩
  · exact ⟨List.forall_mem_nil _, List.forall_mem_nil _⟩

end Sys2Proof.Machine

/-! ### The statements of 30_encoding.md -/

namespace Sys2Proof.Machine

/-- Settles O9: the fields of a beat are those of its word, and the decoder of the port reads them back. -/
theorem decodeEncodeRoundTrip : Obligations.DecodeEncodeRoundTrip := by
  intro p i hwf
  cases hi : i.isEnc with
  | true =>
    obtain ⟨last, null, b, hb, he⟩ := exists_encode_eq_encWord p i hi
    rw [he, decode, decodeEnc_encWord, ← hb]
    exact ⟨rfl, rfl, Laws.encWord_fits p i hi _, rfl⟩
  | false =>
    obtain ⟨last, null, c, hb, he, hc⟩ := exists_encode_eq_decWord p i hi
    rw [he, decode, decodeDec_decWord p _ _ c (hc hwf), ← hb]
    exact ⟨decide_eq_true (decWord_lt p last null c (hc hwf)), rfl,
      Laws.decWord_fits p i hi last null c (hc hwf), rfl⟩

/-- Settles O45: a step that does something performs an action, and none puts an ill-formed word in a
queue. -/
theorem unitsPushOnlyWellFormedWords : Obligations.UnitsPushOnlyWellFormedWords := by
  intro s s' hinv hs h
  obtain ⟨-, rfl⟩ | ⟨a, rest, -, hp⟩ := step_next_cases s s' h
  · exact hs
  · exact perform_keeps_outWF a (s.withActions rest) s' hinv hs hp

/-- Settles O10: a word is its two flags and a data field, the decoder reads them back, and R52's mask
reads the flags alone. -/
theorem decoderIsTotalAndUnambiguous : Obligations.DecoderIsTotalAndUnambiguous := by
  intro p w hw
  cases w with
  | enc ew =>
    obtain ⟨last, null, b, rfl⟩ := exists_encWord_eq ew
    refine ⟨encBeat last null b, congrArg _ (decodeEnc_encWord last null b), encBeat_wf p _ _ _,
      encBeat_isEnc _ _ _, fun j hj => ?_⟩
    obtain ⟨last', null', b', rfl, -⟩ :=
      exists_encode_eq_encWord p j (hj.trans (encBeat_isEnc _ _ _))
    rw [opMatch_encBeat, opMatch_encBeat, PortWord.value, encWord_toNat]
    exact opcode_accepts_iff 8 _ b.isLt _ _ _ _
  | dec dw =>
    obtain ⟨last, null, c, hc, rfl⟩ := exists_decWord_eq p dw (of_decide_eq_true hw)
    refine ⟨decBeat last null c, decodeDec_decWord p last null c hc, decBeat_wf p _ _ c hc,
      decBeat_isEnc _ _ _, fun j hj => ?_⟩
    obtain ⟨last', null', c', rfl, -, -⟩ :=
      exists_encode_eq_decWord p j (hj.trans (decBeat_isEnc _ _ _))
    rw [opMatch_decBeat, opMatch_decBeat, PortWord.value, decWord_eq]
    exact opcode_accepts_iff p.charW c hc _ _ _ _

/-- Settles O58: each message is the encoded words of its beats, which are well formed and all of one
unit. -/
theorem pseudoInstructionsExpandToOneMessage : Obligations.PseudoInstructionsExpandToOneMessage := by
  intro p u
  constructor
  · intro bs hbs
    refine ⟨_, by rw [assembleLine, encMsgBeats_of_lt bs hbs, Except.map], rfl, ?_⟩
    generalize hl : bs.map (fun n => Instr.encByte (BitVec.ofNat 8 n)) ++ [.encEnd] = l
    have hunit : ∀ i ∈ l, i.isEnc = true ∧ i.wf p = true := by
      simp [← hl, or_imp, forall_and, Instr.isEnc, Instr.wf]
    rw [encBeatsOf_map_pushOf, decBeatsOf_map_pushOf p l fun i hi => (hunit i hi).2,
      List.filter_eq_self, List.filter_eq_nil_iff]
    exact ⟨fun i hi => (hunit i hi).1, fun i hi => by simp [hunit i hi]⟩
  · intro cs hcs
    refine ⟨_, by rw [assembleLine, decMsgBeats_of_lt p _ hcs, Except.map], rfl, ?_⟩
    generalize hl : (textCodes u cs).map Instr.decChar ++ [.decEnd] = l
    have hunit : ∀ i ∈ l, i.isEnc = false ∧ i.wf p = true := by
      simpa [← hl, or_imp, forall_and, Instr.isEnc, Instr.wf] using hcs
    rw [encBeatsOf_map_pushOf, decBeatsOf_map_pushOf p l fun i hi => (hunit i hi).2,
      List.filter_eq_self, List.filter_eq_nil_iff]
    exact ⟨fun i hi => by simp [hunit i hi], fun i hi => by simp [hunit i hi]⟩

/-- Settles O6: the number of bits gives the table's decoder and the offered word the same port. -/
theorem tableWordRunsItsBeat : Obligations.TableWordRunsItsBeat := by
  intro s nbits w i hcfg h
  have hstep : step (s.withFetchWord nbits w) = perform (tableAction nbits w) s := rfl
  rw [hstep]
  unfold decodeTableWord at h
  split at h
  · next hbits =>
    split at h <;> cases h
    rw [tableAction, if_pos hbits, perform]
  · next hbits =>
    split at h <;> cases h
    next hd => rw [tableAction, if_neg hbits, perform, hcfg, hd]

/-- Settles O8: eight closed evaluations of the decoder, one a kind. -/
theorem knownWordsDecode : Obligations.KnownWordsDecode := by
  unfold Obligations.KnownWordsDecode
  decide

/-- Settles O11: a word with NULL = 1 decodes to the beat of its flags, whatever its data field. -/
theorem ignoredFieldHasNoEffect : Obligations.IgnoredFieldHasNoEffect := by
  refine ⟨fun b => ⟨decodeEnc_encWord true true b, decodeEnc_encWord false true b⟩, fun p c hc => ?_,
    fun p => ⟨rfl, rfl, ?_, ?_⟩⟩
  · have hend := decodeDec_decWord p true true c hc
    have hnop := decodeDec_decWord p false true c hc
    rw [decWord_eq] at hend hnop
    exact ⟨hend, hnop⟩
  · exact congrArg PortWord.dec (decWord_eq p true true 0)
  · exact congrArg PortWord.dec (decWord_eq p false true 0)

/-- Settles O57: an operand in range is the data field of its word, and the flags are those of R52. -/
theorem assemblerLineWords : Obligations.AssemblerLineWords := by
  intro p u
  refine ⟨fun n hn => ?_, fun n hn => ?_, fun n hn => ?_, fun n hn => ?_, rfl, rfl, ?_, ?_,
    rfl, rfl, rfl⟩
  · simp [assembleLine, asmByte_of_lt n hn, Except.map, pushOf_encByte p n hn,
      pushOf_encByteLast p n hn]
  · simp [assembleLine, asmByte_of_ge n hn, Except.map]
  · simp [assembleLine, asmChar_of_lt p n hn, Except.map]
  · simp [assembleLine, asmChar_of_ge p n hn, Except.map]
  · simp [assembleLine]
  · simp [assembleLine]

end Sys2Proof.Machine

/-! ### Group packing (40_encoder.md R63) -/

namespace Sys2Proof.Machine

/-- The lanes of the packer: two characters always, and two that padding replaces. -/
theorem charLanes_pack (w : GroupWord) (npad : Nat) :
    charLanes (pack w npad) =
      [alpha (sextetOf w 0), alpha (sextetOf w 1),
        if npad = 2 then padCode else alpha (sextetOf w 2),
        if 1 ≤ npad then padCode else alpha (sextetOf w 3)] :=
  charLanes_append _ _ _ _

/-! The indices of a group word by the bits of its bytes (R39). -/

theorem sextetOf_groupWord_zero (b0 b1 b2 : Byte) :
    sextetOf (groupWord b0 b1 b2) 0 = b0.extractLsb' 2 6 := by
  apply BitVec.eq_of_toNat_eq
  simp only [sextetOf, BitVec.extractLsb'_toNat, groupWord_toNat, Nat.shiftRight_eq_div_pow]
  omega

theorem sextetOf_groupWord_one (b0 b1 b2 : Byte) :
    sextetOf (groupWord b0 b1 b2) 1 = b0.extractLsb' 0 2 ++ b1.extractLsb' 4 4 := by
  apply BitVec.eq_of_toNat_eq
  simp only [sextetOf, BitVec.extractLsb'_toNat, toNat_append_eq_add, groupWord_toNat,
    Nat.shiftRight_eq_div_pow]
  omega

theorem sextetOf_groupWord_two (b0 b1 b2 : Byte) :
    sextetOf (groupWord b0 b1 b2) 2 = b1.extractLsb' 0 4 ++ b2.extractLsb' 6 2 := by
  apply BitVec.eq_of_toNat_eq
  simp only [sextetOf, BitVec.extractLsb'_toNat, toNat_append_eq_add, groupWord_toNat,
    Nat.shiftRight_eq_div_pow]
  omega

theorem sextetOf_groupWord_three (b0 b1 b2 : Byte) :
    sextetOf (groupWord b0 b1 b2) 3 = b2.extractLsb' 0 6 := by
  apply BitVec.eq_of_toNat_eq
  simp only [sextetOf, BitVec.extractLsb'_toNat, groupWord_toNat, Nat.shiftRight_eq_div_pow]
  omega

/-! ### The ENC beats on an accepting unit (40_encoder.md R64 to R66) -/

/-- A ready ENC unit takes the step of its register transfer (R93, R94). -/
theorem exec_enc_of_ready (i : Instr) (s : State) (u : Enc) (hi : i.isEnc = true)
    (hready : s.encInReady = true) (hu : encBeatRule i s.enc = .ok u) :
    exec i s = .next (s.withEnc u) := by
  rw [exec_eq_acceptEnc i s hi, acceptEnc_next]
  exact ⟨hready, u, hu, rfl⟩

/-- ENC at the end of a message: the last DATA beats, then END, are pushed, and every register is at its
reset value (R66, R73). -/
def Enc.close (u : Enc) (data : List EncOutWord) : Enc :=
  { Enc.reset with eQ := u.eQ ++ (data ++ [encEndWord]) }

theorem Enc.close_atStart (u : Enc) (data : List EncOutWord) : (u.close data).AtStart :=
  ⟨rfl, rfl, rfl, rfl⟩

@[simp] theorem Enc.close_eQ (u : Enc) (data : List EncOutWord) :
    (u.close data).eQ = u.eQ ++ (data ++ [encEndWord]) := rfl

/-- R66 between groups: no group is held. -/
theorem encEndRule_of_empty (u : Enc) (hu : u.eCnt = 0#2) : encEndRule u = .ok (u.close []) :=
  (encEndRule_ok u _).mpr ⟨u, (encFlush_ok u u).mpr (.inl ⟨hu, rfl⟩), rfl⟩

/-- R66 with one byte held: its group has two padding characters. -/
theorem encEndRule_of_one_held (u : Enc) (hu : u.eCnt = 1#2) :
    encEndRule u = .ok (u.close [encDataWord (pack (groupWord u.eB0 0 0) 2)]) := by
  refine (encEndRule_ok u _).mpr ⟨_, (encFlush_ok u _).mpr (.inr (.inl ⟨hu, rfl⟩)), ?_⟩
  simp [Enc.close, Enc.clear]

/-- R66 with two bytes held: their group has one padding character. -/
theorem encEndRule_of_two_held (u : Enc) (hu : u.eCnt = 2#2) :
    encEndRule u = .ok (u.close [encDataWord (pack (groupWord u.eB0 u.eB1 0) 1)]) := by
  refine (encEndRule_ok u _).mpr ⟨_, (encFlush_ok u _).mpr (.inr (.inr ⟨hu, rfl⟩)), ?_⟩
  simp [Enc.close, Enc.clear]

/-- R65 with no byte held: the byte's group has two padding characters. -/
theorem encByteLastRule_of_empty (b : Byte) (u : Enc) (hu : u.eCnt = 0#2) :
    encByteLastRule b u = .ok (u.close [encDataWord (pack (groupWord b 0 0) 2)]) :=
  (encByteLastRule_ok b u _).mpr
    ⟨_, (encByteRule_ok b u _).mpr (.inl ⟨hu, rfl⟩), encEndRule_of_one_held _ rfl⟩

/-- R65 with one byte held: the two bytes' group has one padding character. -/
theorem encByteLastRule_of_one_held (b : Byte) (u : Enc) (hu : u.eCnt = 1#2) :
    encByteLastRule b u = .ok (u.close [encDataWord (pack (groupWord u.eB0 b 0) 1)]) :=
  (encByteLastRule_ok b u _).mpr
    ⟨_, (encByteRule_ok b u _).mpr (.inr (.inl ⟨hu, rfl⟩)), encEndRule_of_two_held _ rfl⟩

/-- R65 with two bytes held: the full group comes from R64, and R66 finds no group to pad. -/
theorem encByteLastRule_of_two_held (b : Byte) (u : Enc) (hu : u.eCnt = 2#2) :
    encByteLastRule b u = .ok (u.close [encDataWord (pack (groupWord u.eB0 u.eB1 b) 0)]) := by
  refine (encByteLastRule_ok b u _).mpr
    ⟨_, (encByteRule_ok b u _).mpr (.inr (.inr ⟨hu, rfl⟩)), (encEndRule_of_empty _ rfl).trans ?_⟩
  simp [Enc.close]

/-- Two register transfers with one result, on either side of a step of the unit, are accepted alike. -/
theorem acceptEnc_eq_of_rule_eq (s : State) (u : Enc) (rule rule' : Enc → Except Fault Enc)
    (hs : s.encInReady = true) (hu : (s.withEnc u).encInReady = true) (h : rule s.enc = rule' u) :
    acceptEnc s rule = acceptEnc (s.withEnc u) rule' := by
  rw [acceptEnc, acceptEnc, if_pos hs, if_pos hu, State.withEnc_enc, h]
  cases rule' u <;> rfl

/-! ### A closed ENC message (40_encoder.md R69) -/

/-- Beats that act alike from every state act alike after one more beat. -/
theorem encRun_cons_congr (i : Instr) (l m : List Instr) (u : Enc)
    (h : ∀ v, encRun l v = encRun m v) : encRun (i :: l) u = encRun (i :: m) u := by
  simp only [encRun, List.foldlM_cons] at h ⊢
  simp only [h]

/-- As a register transfer, a LAST beat is its plain beat and one ENC_END (R65). -/
theorem encRun_byteLast (b : Byte) (u : Enc) :
    encRun [.encByteLast b] u = encRun [.encByte b, .encEnd] u := by
  simp only [encRun, List.foldlM_cons, List.foldlM_nil, bind_pure, encBeatRule, encByteLastRule]
  cases encByteRule b u <;> rfl

/-- NOP beats aside, a closed ENC message is its ENC_BYTE beats and one ENC_END (R65, R67). -/
theorem encRun_of_encMessage (l : List Instr) (x : List Byte) (u : Enc) (h : encMessage l = some x) :
    encRun l u = encRun (x.map .encByte ++ [.encEnd]) u := by
  fun_induction encMessage l generalizing x u with
  | case1 => cases h; rfl
  | case2 b => cases h; exact encRun_byteLast b u
  | case3 l ih => rw [encRun_cons_of_ok (v := u) rfl, ih x u h]
  | case4 b l ih =>
    obtain ⟨y, hy, rfl⟩ := Option.map_eq_some_iff.mp h
    exact encRun_cons_congr _ _ _ u fun v => ih y v hy
  | case5 => cases h

/-- The DATA beats of a closed message: those of its whole groups, and the padded one if bytes are left
(R64, R66). -/
def messageBeats : List Byte → List EncOutWord
  | a :: b :: c :: rest => encDataWord (pack (groupWord a b c) 0) :: messageBeats rest
  | [a, b] => [encDataWord (pack (groupWord a b 0) 1)]
  | [a] => [encDataWord (pack (groupWord a 0 0) 2)]
  | [] => []

theorem messageBeats_length (x : List Byte) : (messageBeats x).length = (x.length + 2) / 3 := by
  fun_induction messageBeats x with
  | case1 a b c rest ih => simp only [List.length_cons, ih]; omega
  | case2 | case3 | case4 => simp

theorem messageBeats_are_data (x : List Byte) : ∀ w ∈ messageBeats x, encIsEnd w = false := by
  fun_induction messageBeats x with
  | case1 a b c rest ih => simpa using ih
  | case2 | case3 | case4 => simp

/-- The characters of a message's DATA beats are ENCODE of its bytes (R68). -/
theorem messageBeats_lanes (x : List Byte) :
    ((messageBeats x).map encLanes).flatten = encodeMsg x := by
  fun_induction messageBeats x with
  | case1 a b c rest ih => simp [encodeMsg, ih]
  | case2 | case3 | case4 => simp [encodeMsg]

/-- From an empty group, ENC_BYTE beats and one ENC_END push the message's DATA beats and END (R64, R66). -/
theorem encRun_message (x : List Byte) (u : Enc) (hu : u.eCnt = 0#2) :
    encRun (x.map .encByte ++ [.encEnd]) u = .ok (u.close (messageBeats x)) := by
  fun_induction messageBeats x generalizing u with
  | case1 a b c rest ih =>
    simp only [List.map_cons, List.cons_append]
    rw [encRun_first_byte u hu, encRun_second_byte _ rfl, encRun_third_byte _ rfl, ih _ rfl]
    simp [Enc.close]
  | case2 a b =>
    simp only [List.map_cons, List.map_nil, List.cons_append, List.nil_append]
    rw [encRun_first_byte u hu, encRun_second_byte _ rfl]
    exact encRun_cons_of_ok (i := .encEnd) (encEndRule_of_two_held _ rfl) []
  | case3 a =>
    exact (encRun_first_byte u hu a _).trans
      (encRun_cons_of_ok (i := .encEnd) (encEndRule_of_one_held _ rfl) [])
  | case4 => exact encRun_cons_of_ok (i := .encEnd) (encEndRule_of_empty u hu) []

/-- A closed message over any interleaving: what it pushes, and that ENC is between messages again (R69,
R73). -/
theorem enc_closed_message (s s' : State) (acts : List HostAction) (x : List Byte)
    (hs : s.enc.AtStart) (hr : .reset ∉ acts) (hx : encMessage (encBeatsOf acts) = some x)
    (h : runActions s acts = .next s') :
    s'.enc.AtStart ∧ s'.encStream = s.encStream ++ (messageBeats x ++ [encEndWord]) := by
  have hcnt : s.encView.eCnt = 0#2 := hs.1
  have hview : s.encView.close (messageBeats x) = s'.encView := by
    have hrun := runActions_encView acts s s' hr h
    rw [encRun_of_encMessage _ x _ hx, encRun_message x _ hcnt] at hrun
    exact Except.ok.inj hrun
  have hstart : s'.encView.AtStart := hview ▸ Enc.close_atStart _ _
  exact ⟨hstart, (congrArg Enc.eQ hview).symm⟩

/-! ### The characters of ENCODE (40_encoder.md R68, R70) -/

theorem alpha_ne_pad (i : Sextet) : alpha i ≠ 0x3D#8 :=
  fun h => alpha_toNat_ne_pad i (congrArg BitVec.toNat h)

/-! R68 group by group, with the characters written out. -/

theorem encodeMsg_one (a : Byte) :
    encodeMsg [a] =
      [alpha (sextetOf (groupWord a 0 0) 0), alpha (sextetOf (groupWord a 0 0) 1), 0x3D#8, 0x3D#8] :=
  charLanes_pack _ 2

theorem encodeMsg_two (a b : Byte) :
    encodeMsg [a, b] =
      [alpha (sextetOf (groupWord a b 0) 0), alpha (sextetOf (groupWord a b 0) 1),
        alpha (sextetOf (groupWord a b 0) 2), 0x3D#8] :=
  charLanes_pack _ 1

theorem encodeMsg_group (a b c : Byte) (x : List Byte) :
    encodeMsg (a :: b :: c :: x) =
      alpha (sextetOf (groupWord a b c) 0) :: alpha (sextetOf (groupWord a b c) 1) ::
        alpha (sextetOf (groupWord a b c) 2) :: alpha (sextetOf (groupWord a b c) 3) ::
          encodeMsg x := by
  rw [encodeMsg, charLanes_pack]
  rfl

theorem encodeMsg_length (x : List Byte) : (encodeMsg x).length = 4 * ((x.length + 2) / 3) := by
  induction x using encodeMsg.induct with
  | case1 => rfl
  | case2 a => simp [encodeMsg_one]
  | case3 a b => simp [encodeMsg_two]
  | case4 a b c x ih => simp only [encodeMsg_group, List.length_cons, ih]; omega

/-- Only the padded lanes of a short last group are 0x3D. -/
theorem encodeMsg_count_pad (x : List Byte) :
    (encodeMsg x).count 0x3D#8 =
      if x.length % 3 = 0 then 0 else if x.length % 3 = 1 then 2 else 1 := by
  induction x using encodeMsg.induct with
  | case1 => rfl
  | case2 a => simp [encodeMsg_one, alpha_ne_pad]
  | case3 a b => simp [encodeMsg_two, alpha_ne_pad]
  | case4 a b c x ih =>
    have hn : (a :: b :: c :: x).length % 3 = x.length % 3 := Nat.add_mod_right x.length 3
    simp [hn, encodeMsg_group, alpha_ne_pad, ih, -List.length_cons]

/-- A full group has no padding, so padding is among the last four characters. -/
theorem encodeMsg_pad_position (x : List Byte) (k : Nat) (hk : (encodeMsg x)[k]? = some 0x3D#8) :
    (encodeMsg x).length ≤ k + 4 := by
  induction x using encodeMsg.induct generalizing k with
  | case1 => simp [encodeMsg]
  | case2 a => simp [encodeMsg_one]
  | case3 a b => simp [encodeMsg_two]
  | case4 a b c x ih =>
    rw [encodeMsg_group] at hk ⊢
    match k with
    | 0 | 1 | 2 | 3 => simp [alpha_ne_pad] at hk
    | k + 4 => simpa using ih k (by simpa using hk)

theorem encodeMsg_mem (x : List Byte) (c : Byte) (hc : c ∈ encodeMsg x) :
    c = 0x3D#8 ∨ ∃ i : Sextet, c = alpha i := by
  induction x using encodeMsg.induct with
  | case1 => cases hc
  | case2 a =>
    simp only [encodeMsg_one, List.mem_cons, List.not_mem_nil, or_false] at hc
    obtain h | h | h | h := hc
    exacts [.inr ⟨_, h⟩, .inr ⟨_, h⟩, .inl h, .inl h]
  | case3 a b =>
    simp only [encodeMsg_two, List.mem_cons, List.not_mem_nil, or_false] at hc
    obtain h | h | h | h := hc
    exacts [.inr ⟨_, h⟩, .inr ⟨_, h⟩, .inr ⟨_, h⟩, .inl h]
  | case4 a b c x ih =>
    simp only [encodeMsg_group, List.mem_cons] at hc
    obtain h | h | h | h | h := hc
    exacts [.inr ⟨_, h⟩, .inr ⟨_, h⟩, .inr ⟨_, h⟩, .inr ⟨_, h⟩, ih h]

/-- The padding bits of a message are those of its last group. -/
theorem zeroPadBits_group (a b c d : Nat) (s : List Nat) :
    zeroPadBits (a :: b :: c :: d :: s) = if s = [] then zeroPadGroup b c d else zeroPadBits s := by
  cases s with
  | nil => rfl
  | cons e s => simp [zeroPadBits]

/-- The index of a group's last character has zero fill below the bits of its last byte (R63). -/
theorem low_bits_of_zero_fill_four (v : BitVec 2) : (v ++ 0b0000#4 : Sextet) &&& 0b001111 = 0 := by
  revert v; decide

theorem low_bits_of_zero_fill_two (v : BitVec 4) : (v ++ 0b00#2 : Sextet) &&& 0b000011 = 0 := by
  revert v; decide

theorem encodeMsg_zeroPadBits (x : List Byte) : zeroPadBits (codes (encodeMsg x)) = true := by
  induction x using encodeMsg.induct with
  | case1 => rfl
  | case2 a =>
    have hfill : sextetOf (groupWord a 0 0) 1 &&& 0b001111 = 0 := by
      rw [sextetOf_groupWord_one]
      exact low_bits_of_zero_fill_four _
    have hpad : rev 0x3D = .pad := rfl
    simpa [encodeMsg_one, codes, zeroPadBits_group, zeroPadGroup, CharClass.value, hpad] using hfill
  | case3 a b =>
    have hfill : sextetOf (groupWord a b 0) 2 &&& 0b000011 = 0 := by
      rw [sextetOf_groupWord_two]
      exact low_bits_of_zero_fill_two _
    have hpad : rev 0x3D = .pad := rfl
    simpa [encodeMsg_two, codes, zeroPadBits_group, zeroPadGroup, CharClass.value, hpad] using hfill
  | case4 a b c x ih =>
    simp only [encodeMsg_group, codes, List.map_cons, zeroPadBits_group, zeroPadGroup, rev_alpha]
    split
    · rfl
    · exact ih

end Sys2Proof.Machine

/-! ### The statements of 40_encoder.md -/

namespace Sys2Proof.Machine

/-- Settles O48: pops undone, the run is the message's beats, and they push `messageBeats` and END. -/
theorem encComputesEncode : Obligations.EncComputesEncode := by
  intro s s' acts x hs hr hx h
  obtain ⟨hstart, hq⟩ := enc_closed_message s s' acts x hs hr hx h
  exact ⟨hstart, messageBeats x, by rw [hq, List.append_assoc], messageBeats_length x,
    messageBeats_are_data x, messageBeats_lanes x⟩

/-- Settles O27: the LAST beat's register transfer is the plain one's followed by END's. -/
theorem lastBeatIsBeatThenEnd : Obligations.LastBeatIsBeatThenEnd := by
  constructor
  · intro s t b h ht
    obtain ⟨hs, u, hu, rfl⟩ := (acceptEnc_next s t (encByteRule b)).mp h
    have hlast : encByteLastRule b s.enc = encEndRule u := by rw [encByteLastRule, hu]
    exact acceptEnc_eq_of_rule_eq s u _ _ hs ht hlast
  · intro s t c h ht
    obtain ⟨hs, rfl⟩ := (acceptDec_next s t (decCharRule c)).mp h
    exact ((acceptDec_next s _ (decCharLastRule c)).mpr ⟨hs, rfl⟩).trans
      ((acceptDec_next _ _ decEndRule).mpr ⟨ht, rfl⟩).symm

/-- Settles O35: the beats an ENC step appends are those its register transfer pushes. -/
theorem encBeatsPushTheirCounts : Obligations.EncBeatsPushTheirCounts := by
  intro i s s' hi h
  rw [exec_eq_acceptEnc i s hi, acceptEnc_next] at h
  obtain ⟨-, u, hu, rfl⟩ := h
  cases i with
  | encByte b =>
    obtain ⟨l, hl, hlen, -⟩ := encByteRule_pushes b s.enc u hu
    exact ⟨l, hl, hlen⟩
  | encByteLast b => exact encByteLastRule_pushes b s.enc u hu
  | encEnd => exact encEndRule_pushes s.enc u hu
  | encNop => cases hu; exact ⟨[], by simp⟩
  | decChar _ | decCharLast _ | decEnd | decNop => cases hi

/-- Settles O53: each law by its own induction over the groups of three bytes. -/
theorem encodeObeysItsLaws : Obligations.EncodeObeysItsLaws := fun x =>
  ⟨encodeMsg_length x, encodeMsg_count_pad x, encodeMsg_pad_position x, encodeMsg_zeroPadBits x,
    encodeMsg_mem x⟩

/-- Settles O17: the packer's lanes are ALPHA of the word's indices, and each index is bits of the bytes. -/
theorem packerLanesOfEachGroupSize : Obligations.PackerLanesOfEachGroupSize := by
  intro b0 b1 b2
  simp only [charLanes_pack, sextetOf_groupWord_zero, sextetOf_groupWord_one,
    sextetOf_groupWord_two, sextetOf_groupWord_three]
  exact ⟨rfl, rfl, rfl, rfl, rfl⟩

/-- Settles O18: R64's case for each legal `e_cnt`, on a ready unit. -/
theorem encByteResult : Obligations.EncByteResult := by
  refine ⟨fun b => decodeEnc_encWord false false b, fun s b hready => ⟨fun hc => ?_, fun hc => ?_,
    fun hc => ?_⟩⟩
  · exact exec_enc_of_ready _ s _ rfl hready ((encByteRule_ok b _ _).mpr (.inl ⟨hc, rfl⟩))
  · exact exec_enc_of_ready _ s _ rfl hready ((encByteRule_ok b _ _).mpr (.inr (.inl ⟨hc, rfl⟩)))
  · exact exec_enc_of_ready _ s _ rfl hready ((encByteRule_ok b _ _).mpr (.inr (.inr ⟨hc, rfl⟩)))

/-- Settles O19: R65's case for each legal `e_cnt`, on a ready unit. -/
theorem encByteLastResult : Obligations.EncByteLastResult :=
  ⟨fun b => decodeEnc_encWord true false b, fun s b hready =>
    ⟨fun hc => exec_enc_of_ready _ s _ rfl hready (encByteLastRule_of_empty b s.enc hc),
      fun hc => exec_enc_of_ready _ s _ rfl hready (encByteLastRule_of_one_held b s.enc hc),
      fun hc => exec_enc_of_ready _ s _ rfl hready (encByteLastRule_of_two_held b s.enc hc)⟩⟩

/-- Settles O20: R66's case for each legal `e_cnt`, on a ready unit. -/
theorem encEndResult : Obligations.EncEndResult :=
  ⟨fun b => decodeEnc_encWord true true b, fun s hready =>
    ⟨fun hc => exec_enc_of_ready _ s _ rfl hready (encEndRule_of_empty s.enc hc),
      fun hc => exec_enc_of_ready _ s _ rfl hready (encEndRule_of_one_held s.enc hc),
      fun hc => exec_enc_of_ready _ s _ rfl hready (encEndRule_of_two_held s.enc hc)⟩⟩

/-- Settles O21: the register transfer of ENC_NOP leaves the registers as they are. -/
theorem encNopResult : Obligations.EncNopResult :=
  ⟨fun b => decodeEnc_encWord false true b, fun s hready => exec_enc_of_ready _ s _ rfl hready rfl⟩

end Sys2Proof.Machine

/-! ### Group unpacking (41_decoder.md R75) -/

namespace Sys2Proof.Machine

/-! The bytes of a group word by the bits of its indices, and back (R39). -/

theorem byteOf_sextetWord_zero (v0 v1 v2 v3 : Sextet) :
    byteOf (sextetWord v0 v1 v2 v3) 0 = v0 ++ v1.extractLsb' 4 2 := by
  apply BitVec.eq_of_toNat_eq
  simp only [byteOf, BitVec.extractLsb'_toNat, toNat_append_eq_add, sextetWord_toNat,
    Nat.shiftRight_eq_div_pow]
  omega

theorem byteOf_sextetWord_one (v0 v1 v2 v3 : Sextet) :
    byteOf (sextetWord v0 v1 v2 v3) 1 = v1.extractLsb' 0 4 ++ v2.extractLsb' 2 4 := by
  apply BitVec.eq_of_toNat_eq
  simp only [byteOf, BitVec.extractLsb'_toNat, toNat_append_eq_add, sextetWord_toNat,
    Nat.shiftRight_eq_div_pow]
  omega

theorem byteOf_groupWord_zero (b0 b1 b2 : Byte) : byteOf (groupWord b0 b1 b2) 0 = b0 := by
  apply BitVec.eq_of_toNat_eq
  simp only [byteOf, BitVec.extractLsb'_toNat, groupWord_toNat, Nat.shiftRight_eq_div_pow]
  omega

theorem byteOf_groupWord_one (b0 b1 b2 : Byte) : byteOf (groupWord b0 b1 b2) 1 = b1 := by
  apply BitVec.eq_of_toNat_eq
  simp only [byteOf, BitVec.extractLsb'_toNat, groupWord_toNat, Nat.shiftRight_eq_div_pow]
  omega

theorem byteOf_groupWord_two (b0 b1 b2 : Byte) : byteOf (groupWord b0 b1 b2) 2 = b2 := by
  apply BitVec.eq_of_toNat_eq
  simp only [byteOf, BitVec.extractLsb'_toNat, groupWord_toNat, Nat.shiftRight_eq_div_pow]
  omega

theorem sextetOf_sextetWord (v0 v1 v2 v3 : Sextet) :
    sextetOf (sextetWord v0 v1 v2 v3) 0 = v0 ∧ sextetOf (sextetWord v0 v1 v2 v3) 1 = v1 ∧
      sextetOf (sextetWord v0 v1 v2 v3) 2 = v2 ∧ sextetOf (sextetWord v0 v1 v2 v3) 3 = v3 := by
  refine ⟨?_, ?_, ?_, ?_⟩ <;> apply BitVec.eq_of_toNat_eq <;>
    simp only [sextetOf, BitVec.extractLsb'_toNat, sextetWord_toNat, Nat.shiftRight_eq_div_pow] <;>
    omega

/-! The dropped bits of the last index before the padding (R87): clearing them keeps the others and fills
with zeros, as the packer does (R63). -/

theorem and_four_kept_bits (v : Sextet) : v &&& 0b111100 = v.extractLsb' 2 4 ++ 0b00#2 := by
  revert v; decide

theorem and_two_kept_bits (v : Sextet) : v &&& 0b110000 = v.extractLsb' 4 2 ++ 0b0000#4 := by
  revert v; decide

theorem and_four_kept_bits_eq_self (v : Sextet) : v &&& 0b111100 = v ↔ v &&& 0b000011 = 0 := by
  revert v; decide

theorem and_two_kept_bits_eq_self (v : Sextet) : v &&& 0b110000 = v ↔ v &&& 0b001111 = 0 := by
  revert v; decide

/-- Packing the two bytes kept of a group with one PAD clears the dropped bits of its third index. -/
theorem sextetOf_of_one_pad (v0 v1 v2 : Sextet) :
    let w := sextetWord v0 v1 v2 0
    let p := groupWord (byteOf w 0) (byteOf w 1) 0
    sextetOf p 0 = v0 ∧ sextetOf p 1 = v1 ∧ sextetOf p 2 = v2 &&& 0b111100 := by
  simp only [sextetOf_groupWord_zero, sextetOf_groupWord_one, sextetOf_groupWord_two,
    byteOf_sextetWord_zero, byteOf_sextetWord_one, and_four_kept_bits]
  refine ⟨?_, ?_, ?_⟩ <;> apply BitVec.eq_of_toNat_eq <;>
    simp only [BitVec.extractLsb'_toNat, toNat_append_eq_add, Nat.shiftRight_eq_div_pow,
      BitVec.ofNat_eq_ofNat, BitVec.toNat_ofNat] <;>
    omega

/-- Packing the byte kept of a group with two PADs clears the dropped bits of its second index. -/
theorem sextetOf_of_two_pads (v0 v1 : Sextet) :
    let p := groupWord (byteOf (sextetWord v0 v1 0 0) 0) 0 0
    sextetOf p 0 = v0 ∧ sextetOf p 1 = v1 &&& 0b110000 := by
  simp only [sextetOf_groupWord_zero, sextetOf_groupWord_one, byteOf_sextetWord_zero,
    and_two_kept_bits]
  refine ⟨?_, ?_⟩ <;> apply BitVec.eq_of_toNat_eq <;>
    simp only [BitVec.extractLsb'_toNat, toNat_append_eq_add, Nat.shiftRight_eq_div_pow,
      BitVec.ofNat_eq_ofNat, BitVec.toNat_ofNat] <;>
    omega

end Sys2Proof.Machine

/-! ### DECODE group by group (41_decoder.md R81 to R83) -/

namespace Sys2Proof.Machine

/-- `DECODE(s) = OK(y)`, read group by group: full groups, then at most one that ends in one PAD or in two
and whose bytes are cut (R82, R83). `decodeMsg_eq_ok_iff` ties it to DECODE. -/
inductive Decodes : List Nat → List Byte → Prop
  | nil : Decodes [] []
  | fullGroup {a b c d : Nat} {s : List Nat} {y : List Byte} {v0 v1 v2 v3 : Sextet}
      (ha : rev a = .val v0) (hb : rev b = .val v1) (hc : rev c = .val v2) (hd : rev d = .val v3)
      (hs : Decodes s y) :
      Decodes (a :: b :: c :: d :: s)
        (byteOf (sextetWord v0 v1 v2 v3) 0 :: byteOf (sextetWord v0 v1 v2 v3) 1 ::
          byteOf (sextetWord v0 v1 v2 v3) 2 :: y)
  | onePad {a b c d : Nat} {v0 v1 v2 : Sextet}
      (ha : rev a = .val v0) (hb : rev b = .val v1) (hc : rev c = .val v2) (hd : rev d = .pad) :
      Decodes [a, b, c, d] [byteOf (sextetWord v0 v1 v2 0) 0, byteOf (sextetWord v0 v1 v2 0) 1]
  | twoPads {a b c d : Nat} {v0 v1 : Sextet}
      (ha : rev a = .val v0) (hb : rev b = .val v1) (hc : rev c = .pad) (hd : rev d = .pad) :
      Decodes [a, b, c, d] [byteOf (sextetWord v0 v1 0 0) 0]

theorem Decodes.length_mod_four {s : List Nat} {y : List Byte} (h : Decodes s y) :
    s.length % 4 = 0 := by
  induction h with
  | nil => rfl
  | fullGroup _ _ _ _ _ ih => simp only [List.length_cons]; omega
  | onePad | twoPads => simp

theorem classAt_cons_zero (a : Nat) (s : List Nat) : classAt (a :: s) 0 = rev a := rfl

theorem classAt_cons_succ (a : Nat) (s : List Nat) (i : Nat) :
    classAt (a :: s) (i + 1) = classAt s i := rfl

/-- R82 reads a character's class, its distance from the end and the last character, so a group in front
makes no difference. -/
theorem okAt_cons_group (a b c d : Nat) (s : List Nat) (i : Nat) (hs : s ≠ []) :
    okAt (a :: b :: c :: d :: s) (i + 4) = okAt s i := by
  obtain ⟨e, t, rfl⟩ := List.exists_cons_of_ne_nil hs
  have hdist : ∀ k, (i + 4 + k == (a :: b :: c :: d :: e :: t).length) = (i + k == (e :: t).length) :=
    fun k => by rw [Bool.eq_iff_iff]; simp only [List.length_cons, beq_iff_eq]; omega
  have hlast : classAt (a :: b :: c :: d :: e :: t) ((a :: b :: c :: d :: e :: t).length - 1) =
      classAt (e :: t) ((e :: t).length - 1) := rfl
  simp only [okAt, hdist, hlast, classAt_cons_succ]

/-- R82 on a character that is not among the last two: only a VAL passes. -/
theorem okAt_of_lt (s : List Nat) (i : Nat) (hi : i + 2 < s.length) :
    okAt s i = (classAt s i).isVal := by
  have hone : (i + 1 == s.length) = false := beq_false_of_ne (by omega)
  have htwo : (i + 2 == s.length) = false := beq_false_of_ne (by omega)
  simp [okAt, hone, htwo]

/-- R82 over a message whose first group is not its last. -/
theorem forall_okAt_cons_group (a b c d : Nat) (s : List Nat) (hs : 2 < s.length) :
    (∀ i < (a :: b :: c :: d :: s).length, okAt (a :: b :: c :: d :: s) i = true) ↔
      (rev a).isVal = true ∧ (rev b).isVal = true ∧ (rev c).isVal = true ∧ (rev d).isVal = true ∧
        ∀ i < s.length, okAt s i = true := by
  have hne : s ≠ [] := List.length_pos_iff.mp (by omega)
  have hfront : ∀ i < 4, okAt (a :: b :: c :: d :: s) i = (classAt (a :: b :: c :: d :: s) i).isVal :=
    fun i hi => okAt_of_lt _ i (by simp only [List.length_cons]; omega)
  simp only [List.length_cons, Nat.forall_lt_succ_left, Nat.reduceAdd, okAt_cons_group a b c d s _ hne]
  rw [hfront 0 (by omega), hfront 1 (by omega), hfront 2 (by omega), hfront 3 (by omega)]
  rfl

/-- R82 on the four characters of the last group. -/
theorem forall_okAt_last_group (a b c d : Nat) :
    (∀ i < [a, b, c, d].length, okAt [a, b, c, d] i = true) ↔
      (rev a).isVal = true ∧ (rev b).isVal = true ∧
        ((rev c).isVal = true ∨ rev c = .pad ∧ rev d = .pad) ∧
        ((rev d).isVal = true ∨ rev d = .pad) := by
  simp only [List.length_cons, List.length_nil, Nat.forall_lt_succ_left, Nat.reduceAdd]
  simp [okAt, classAt_cons_zero, classAt_cons_succ]

/-- DECODE is OK exactly when the length and every character pass, and its bytes are BYTES (R81). -/
theorem decodeMsg_eq_ok_iff_checks (s : List Nat) (y : List Byte) :
    decodeMsg s = .ok y ↔
      s.length % 4 = 0 ∧ (∀ i < s.length, okAt s i = true) ∧ bytesOf s = y := by
  unfold decodeMsg
  split_ifs with hnil hlen hall
  · simp [hnil, bytesOf]
  · simp [hlen]
  · simp_all
  · simp_all

/-- R83 on a full group. -/
theorem bytesOf_full_group {a b c d : Nat} {v0 v1 v2 v3 : Sextet} (s : List Nat)
    (ha : rev a = .val v0) (hb : rev b = .val v1) (hc : rev c = .val v2) (hd : rev d = .val v3) :
    bytesOf (a :: b :: c :: d :: s) =
      byteOf (sextetWord v0 v1 v2 v3) 0 :: byteOf (sextetWord v0 v1 v2 v3) 1 ::
        byteOf (sextetWord v0 v1 v2 v3) 2 :: bytesOf s := by
  simp [bytesOf, groupBytes, padCount, CharClass.value, unpack, ha, hb, hc, hd]

/-- R83 on a last group with one PAD. -/
theorem bytesOf_one_pad {a b c d : Nat} {v0 v1 v2 : Sextet}
    (ha : rev a = .val v0) (hb : rev b = .val v1) (hc : rev c = .val v2) (hd : rev d = .pad) :
    bytesOf [a, b, c, d] =
      [byteOf (sextetWord v0 v1 v2 0) 0, byteOf (sextetWord v0 v1 v2 0) 1] := by
  simp [bytesOf, groupBytes, padCount, CharClass.value, unpack, ha, hb, hc, hd]

/-- R83 on a last group with two PADs. -/
theorem bytesOf_two_pads {a b c d : Nat} {v0 v1 : Sextet}
    (ha : rev a = .val v0) (hb : rev b = .val v1) (hc : rev c = .pad) (hd : rev d = .pad) :
    bytesOf [a, b, c, d] = [byteOf (sextetWord v0 v1 0 0) 0] := by
  simp [bytesOf, groupBytes, padCount, CharClass.value, unpack, ha, hb, hc, hd]

/-- What is left after the groups of four is nothing, when the length allows it. -/
theorem eq_nil_of_no_group {s : List Nat} (hlen : s.length % 4 = 0)
    (hshort : ∀ a b c d rest, s = a :: b :: c :: d :: rest → False) : s = [] := by
  rcases s with _ | ⟨a, _ | ⟨b, _ | ⟨c, _ | ⟨d, s⟩⟩⟩⟩
  case nil => rfl
  case cons.cons.cons.cons => exact (hshort a b c d s rfl).elim
  all_goals simp at hlen

theorem decodes_of_decodeMsg {s : List Nat} {y : List Byte} (h : decodeMsg s = .ok y) :
    Decodes s y := by
  obtain ⟨hlen, hok, rfl⟩ := (decodeMsg_eq_ok_iff_checks s y).mp h
  clear h
  induction s using bytesOf.induct with
  | case1 a b c d s ih =>
    by_cases hs : s = []
    · subst hs
      obtain ⟨ha, hb, hc, hd⟩ := (forall_okAt_last_group a b c d).mp hok
      simp only [CharClass.isVal_iff] at ha hb hc hd
      obtain ⟨v0, ha⟩ := ha
      obtain ⟨v1, hb⟩ := hb
      obtain ⟨v2, hc⟩ | ⟨hc, hd⟩ := hc
      · obtain ⟨v3, hd⟩ | hd := hd
        · rw [bytesOf_full_group [] ha hb hc hd]
          exact .fullGroup ha hb hc hd .nil
        · rw [bytesOf_one_pad ha hb hc hd]
          exact .onePad ha hb hc hd
      · rw [bytesOf_two_pads ha hb hc hd]
        exact .twoPads ha hb hc hd
    · have hpos := List.length_pos_iff.mpr hs
      simp only [List.length_cons] at hlen
      obtain ⟨ha, hb, hc, hd, hrest⟩ :=
        (forall_okAt_cons_group a b c d s (by omega)).mp hok
      obtain ⟨v0, ha⟩ := (CharClass.isVal_iff _).mp ha
      obtain ⟨v1, hb⟩ := (CharClass.isVal_iff _).mp hb
      obtain ⟨v2, hc⟩ := (CharClass.isVal_iff _).mp hc
      obtain ⟨v3, hd⟩ := (CharClass.isVal_iff _).mp hd
      rw [bytesOf_full_group s ha hb hc hd]
      exact .fullGroup ha hb hc hd (ih (by omega) hrest)
  | case2 s hshort =>
    obtain rfl := eq_nil_of_no_group hlen hshort
    exact .nil

theorem Decodes.forall_okAt {s : List Nat} {y : List Byte} (h : Decodes s y) :
    ∀ i < s.length, okAt s i = true := by
  induction h with
  | nil => simp
  | @fullGroup a b c d s y v0 v1 v2 v3 ha hb hc hd hs ih =>
    by_cases hnil : s = []
    · subst hnil
      simp [forall_okAt_last_group, -List.length_cons, CharClass.isVal, ha, hb, hc, hd]
    · have hpos := List.length_pos_iff.mpr hnil
      have hmod := hs.length_mod_four
      rw [forall_okAt_cons_group a b c d s (by omega)]
      simpa [CharClass.isVal, ha, hb, hc, hd] using ih
  | onePad ha hb hc hd =>
    simp [forall_okAt_last_group, -List.length_cons, CharClass.isVal, ha, hb, hc, hd]
  | twoPads ha hb hc hd =>
    simp [forall_okAt_last_group, -List.length_cons, CharClass.isVal, ha, hb, hc, hd]

theorem Decodes.bytesOf_eq {s : List Nat} {y : List Byte} (h : Decodes s y) : bytesOf s = y := by
  induction h with
  | nil => rfl
  | fullGroup ha hb hc hd _ ih => rw [bytesOf_full_group _ ha hb hc hd, ih]
  | onePad ha hb hc hd => exact bytesOf_one_pad ha hb hc hd
  | twoPads ha hb hc hd => exact bytesOf_two_pads ha hb hc hd

theorem decodeMsg_eq_ok_iff (s : List Nat) (y : List Byte) : decodeMsg s = .ok y ↔ Decodes s y :=
  ⟨decodes_of_decodeMsg, fun h =>
    (decodeMsg_eq_ok_iff_checks s y).mpr ⟨h.length_mod_four, h.forall_okAt, h.bytesOf_eq⟩⟩

theorem DecResult.status_eq_ok_iff (r : DecResult) : r.status = .ok ↔ ∃ y, r = .ok y := by
  cases r <;> simp [DecResult.status]

/-- The status of DECODE: the length is checked first, and then whether the message decodes (R81). -/
theorem decodeMsg_status (s : List Nat) :
    (s.length % 4 ≠ 0 ∧ (decodeMsg s).status = .lengthError) ∨
    (s.length % 4 = 0 ∧ (∃ y, Decodes s y) ∧ (decodeMsg s).status = .ok) ∨
    (s.length % 4 = 0 ∧ (¬ ∃ y, Decodes s y) ∧ (decodeMsg s).status = .characterError) := by
  simp only [← decodeMsg_eq_ok_iff]
  unfold decodeMsg
  split_ifs with hnil hlen hall
  · simp [hnil, DecResult.status]
  · simp [hlen, DecResult.status]
  · simp [Decidable.not_not.mp hlen, DecResult.status]
  · simp [Decidable.not_not.mp hlen, DecResult.status]

end Sys2Proof.Machine

/-! ### DECODE after ENCODE, and padding (41_decoder.md R86 to R88) -/

namespace Sys2Proof.Machine

theorem rev_padCode : rev (0x3D#8 : Byte).toNat = .pad := rfl

/-- Byte 0 of a group whose first two indices are those of a word is the word's. -/
theorem byteOf_zero_of_sextetOf (w : GroupWord) (v2 v3 : Sextet) :
    byteOf (sextetWord (sextetOf w 0) (sextetOf w 1) v2 v3) 0 = byteOf w 0 := by
  conv_rhs => rw [← sextetWord_sextetOf w]
  simp only [byteOf_sextetWord_zero]

/-- Byte 1 of a group whose first three indices are those of a word is the word's. -/
theorem byteOf_one_of_sextetOf (w : GroupWord) (v3 : Sextet) :
    byteOf (sextetWord (sextetOf w 0) (sextetOf w 1) (sextetOf w 2) v3) 1 = byteOf w 1 := by
  conv_rhs => rw [← sextetWord_sextetOf w]
  simp only [byteOf_sextetWord_one]

/-- R86 for the functions: each group of ENCODE decodes to its bytes. -/
theorem decodes_encodeMsg (x : List Byte) : Decodes (codes (encodeMsg x)) x := by
  induction x using encodeMsg.induct with
  | case1 => exact .nil
  | case2 a =>
    have h := Decodes.twoPads (rev_alpha (sextetOf (groupWord a 0 0) 0))
      (rev_alpha (sextetOf (groupWord a 0 0) 1)) rev_padCode rev_padCode
    rw [byteOf_zero_of_sextetOf, byteOf_groupWord_zero] at h
    rwa [encodeMsg_one]
  | case3 a b =>
    have h := Decodes.onePad (rev_alpha (sextetOf (groupWord a b 0) 0))
      (rev_alpha (sextetOf (groupWord a b 0) 1)) (rev_alpha (sextetOf (groupWord a b 0) 2)) rev_padCode
    rw [byteOf_zero_of_sextetOf, byteOf_groupWord_zero, byteOf_one_of_sextetOf,
      byteOf_groupWord_one] at h
    rwa [encodeMsg_two]
  | case4 a b c x ih =>
    have h := Decodes.fullGroup (rev_alpha (sextetOf (groupWord a b c) 0))
      (rev_alpha (sextetOf (groupWord a b c) 1)) (rev_alpha (sextetOf (groupWord a b c) 2))
      (rev_alpha (sextetOf (groupWord a b c) 3)) ih
    rw [sextetWord_sextetOf, byteOf_groupWord_zero, byteOf_groupWord_one, byteOf_groupWord_two] at h
    rwa [encodeMsg_group]

/-- The last group of a message may be replaced by one that decodes to the same bytes. -/
theorem Decodes.replace_last_group {g g' : List Nat} (hg : g.length = 4)
    (hgg' : ∀ y, Decodes g y → Decodes g' y) (l : List Nat) (y : List Byte)
    (h : Decodes (l ++ g) y) : Decodes (l ++ g') y := by
  induction l using bytesOf.induct generalizing y with
  | case1 a b c d l ih =>
    simp only [List.cons_append] at h ⊢
    generalize hs : l ++ g = s at h ih
    cases h with
    | fullGroup ha hb hc hd hrest => exact .fullGroup ha hb hc hd (ih _ hrest)
    | onePad | twoPads => simp [List.append_eq_nil_iff.mp hs] at hg
  | case2 l hshort =>
    have hlen := h.length_mod_four
    rw [List.length_append, hg, Nat.add_mod_right] at hlen
    obtain rfl := eq_nil_of_no_group hlen hshort
    exact hgg' y h

/-- R87 with two PADs: byte 0 has the two kept bits of the second index and no others of it. -/
theorem Decodes.change_two_pads {a b b' : Nat} {v v' : Sextet} (hb : rev b = .val v)
    (hb' : rev b' = .val v') (hkept : v.extractLsb' 4 2 = v'.extractLsb' 4 2) (y : List Byte)
    (h : Decodes [a, b, 0x3D, 0x3D] y) : Decodes [a, b', 0x3D, 0x3D] y := by
  cases h with
  | fullGroup _ _ hc => cases hc
  | onePad _ _ hc => cases hc
  | @twoPads _ _ _ _ v0 v1 ha hv hc hd =>
    obtain rfl : v1 = v := by simpa [hb] using hv.symm
    have hbyte : byteOf (sextetWord v0 v1 0 0) 0 = byteOf (sextetWord v0 v' 0 0) 0 := by
      rw [byteOf_sextetWord_zero, byteOf_sextetWord_zero, hkept]
    rw [hbyte]
    exact .twoPads ha hb' hc hd

/-- R87 with one PAD: byte 1 has the four kept bits of the third index, and byte 0 none of it. -/
theorem Decodes.change_one_pad {a b c c' : Nat} {v v' : Sextet} (hc : rev c = .val v)
    (hc' : rev c' = .val v') (hkept : v.extractLsb' 2 4 = v'.extractLsb' 2 4) (y : List Byte)
    (h : Decodes [a, b, c, 0x3D] y) : Decodes [a, b, c', 0x3D] y := by
  cases h with
  | fullGroup _ _ _ hd => cases hd
  | twoPads _ _ hpad => simp [hc] at hpad
  | @onePad _ _ _ _ v0 v1 v2 ha hb hv hd =>
    obtain rfl : v2 = v := by simpa [hc] using hv.symm
    have hfirst : byteOf (sextetWord v0 v1 v2 0) 0 = byteOf (sextetWord v0 v1 v' 0) 0 := by
      rw [byteOf_sextetWord_zero, byteOf_sextetWord_zero]
    have hsecond : byteOf (sextetWord v0 v1 v2 0) 1 = byteOf (sextetWord v0 v1 v' 0) 1 := by
      rw [byteOf_sextetWord_one, byteOf_sextetWord_one, hkept]
    rw [hfirst, hsecond]
    exact .onePad ha hb hc' hd

/-! CANON group by group (R88). -/

theorem canon_full_group (a b c d : Nat) (s : List Nat) (hc : rev c ≠ .pad) (hd : rev d ≠ .pad) :
    canon (a :: b :: c :: d :: s) = a :: b :: c :: d :: canon s := by
  cases s with
  | nil => simp [canon, canonGroup, hc, hd]
  | cons e s => rfl

theorem canon_one_pad (a b c d : Nat) (v : Sextet) (hc : rev c = .val v) (hd : rev d = .pad) :
    canon [a, b, c, d] = [a, b, (alpha (v &&& 0b111100)).toNat, d] := by
  simp [canon, canonGroup, CharClass.value, hc, hd]

theorem canon_two_pads (a b c d : Nat) (v : Sextet) (hb : rev b = .val v) (hc : rev c = .pad) :
    canon [a, b, c, d] = [a, (alpha (v &&& 0b110000)).toNat, c, d] := by
  simp [canon, canonGroup, CharClass.value, hb, hc]

/-- R88: packing the bytes of a group gives its characters back, but for the dropped bits. -/
theorem Decodes.codes_encodeMsg {s : List Nat} {y : List Byte} (h : Decodes s y) :
    codes (encodeMsg y) = canon s := by
  induction h with
  | nil => rfl
  | @fullGroup a b c d s y v0 v1 v2 v3 ha hb hc hd hs ih =>
    obtain ⟨h0, h1, h2, h3⟩ := sextetOf_sextetWord v0 v1 v2 v3
    rw [encodeMsg_group, groupWord_byteOf, h0, h1, h2, h3,
      canon_full_group a b c d s (by simp [hc]) (by simp [hd]), ← ih, eq_alpha_of_rev_val a v0 ha,
      eq_alpha_of_rev_val b v1 hb, eq_alpha_of_rev_val c v2 hc, eq_alpha_of_rev_val d v3 hd]
    rfl
  | @onePad a b c d v0 v1 v2 ha hb hc hd =>
    obtain ⟨h0, h1, h2⟩ := sextetOf_of_one_pad v0 v1 v2
    rw [encodeMsg_two, h0, h1, h2, canon_one_pad a b c d v2 hc hd, eq_alpha_of_rev_val a v0 ha,
      eq_alpha_of_rev_val b v1 hb, (rev_eq_pad_iff d).mp hd]
    rfl
  | @twoPads a b c d v0 v1 ha hb hc hd =>
    obtain ⟨h0, h1⟩ := sextetOf_of_two_pads v0 v1
    rw [encodeMsg_one, h0, h1, canon_two_pads a b c d v1 hb hc, eq_alpha_of_rev_val a v0 ha,
      (rev_eq_pad_iff c).mp hc, (rev_eq_pad_iff d).mp hd]
    rfl

/-- A character is its own replacement exactly when clearing the dropped bits does not change its value. -/
theorem alpha_toNat_eq_iff {c : Nat} {v : Sextet} (hc : rev c = .val v) (v' : Sextet) :
    (alpha v').toNat = c ↔ v' = v := by
  rw [eq_alpha_of_rev_val c v hc]
  exact ⟨alpha_toNat_injective v' v, fun h => h ▸ rfl⟩

/-- R88: a message is canonical exactly when its padding bits are zero. -/
theorem Decodes.canon_eq_self_iff {s : List Nat} {y : List Byte} (h : Decodes s y) :
    canon s = s ↔ zeroPadBits s = true := by
  induction h with
  | nil => simp [canon, zeroPadBits]
  | @fullGroup a b c d s y v0 v1 v2 v3 ha hb hc hd hs ih =>
    have hbits : zeroPadBits (a :: b :: c :: d :: s) = zeroPadBits s := by
      rw [zeroPadBits_group]
      split
      · next hnil => simp [hnil, zeroPadBits, zeroPadGroup, hc, hd]
      · rfl
    rw [canon_full_group a b c d s (by simp [hc]) (by simp [hd]), hbits, ← ih]
    simp
  | @onePad a b c d v0 v1 v2 ha hb hc hd =>
    have hbits : zeroPadBits [a, b, c, d] = (v2 &&& 0b000011 == 0) := by
      simp [zeroPadBits, zeroPadGroup, CharClass.value, hc, hd]
    rw [canon_one_pad a b c d v2 hc hd, hbits, beq_iff_eq, ← and_four_kept_bits_eq_self,
      ← alpha_toNat_eq_iff hc]
    simp
  | @twoPads a b c d v0 v1 ha hb hc hd =>
    have hbits : zeroPadBits [a, b, c, d] = (v1 &&& 0b001111 == 0) := by
      simp [zeroPadBits, zeroPadGroup, CharClass.value, hb, hc]
    rw [canon_two_pads a b c d v1 hb hc, hbits, beq_iff_eq, ← and_two_kept_bits_eq_self,
      ← alpha_toNat_eq_iff hb]
    simp

end Sys2Proof.Machine

/-! ### The DEC beats on an accepting unit (41_decoder.md R77 to R80, R92) -/

namespace Sys2Proof.Machine

/-- A ready DEC unit takes the step of its register transfer (R93, R94). -/
theorem exec_dec_of_ready (i : Instr) (s : State) (d : Dec) (hi : i.isEnc = false)
    (hready : s.decInReady = true) (hd : decBeatRule i s.dec = d) :
    exec i s = .next (s.withDec d) := by
  rw [exec_eq_acceptDec i s hi, acceptDec_next]
  exact ⟨hready, hd ▸ rfl⟩

/-- The DEC word of a kind by its opcode bits (R50, R52). -/
theorem decodeDec_opcode (p : Params) (last null : Bool) (c : Nat) (hc : c < 2 ^ p.charW) :
    decodeDec p (opcode last null * 2 ^ p.charW + c) = .ok (decBeat last null c) := by
  rw [← decWord_eq, decodeDec_decWord p last null c hc]

/-! R77's counting part as a whole. -/

theorem decAdvance_of_ne_three (d : Dec) (h : d.dPos ≠ 3#2) :
    decAdvance d = { d with dPos := d.dPos + 1, dActive := true } := by
  simp [decAdvance, h]

theorem decAdvance_of_three (d : Dec) (h : d.dPos = 3#2) :
    decAdvance d = { d with
      dPos := 0, dActive := true, dV0 := 0, dV1 := 0, dV2 := 0, dPad2 := false } := by
  simp [decAdvance, Dec.clearGroup, h]

/-- The class cannot stand at the character's position: causes C-a to C-c of R107. -/
def Dec.Rejects (d : Dec) (k : CharClass) : Prop :=
  k = .invalid ∨ ((d.dPos = 0#2 ∨ d.dPos = 1#2) ∧ k = .pad) ∨
    (d.dPos = 3#2 ∧ d.dPad2 = true ∧ k.isVal = true)

theorem decPlace_of_rejects (k : CharClass) (d : Dec) (h : d.Rejects k) : decPlace k d = d.setErr := by
  obtain rfl | ⟨hp | hp, rfl⟩ | ⟨hp, hp2, hval⟩ := h
  · unfold decPlace
    split_ifs <;> rfl
  · simp [decPlace, decAt0, hp]
  · simp [decPlace, decAt1, hp]
  · obtain ⟨v, rfl⟩ := (CharClass.isVal_iff k).mp hval
    simp [decPlace, decAt3, hp, hp2]

theorem decCharRule_of_rejects (c : Nat) (d : Dec) (he : d.dErr = false) (hv : d.dHoldValid = false)
    (h : d.Rejects (rev c)) : decCharRule c d = decAdvance d.setErr := by
  rw [decCharRule_of_clean c d he hv, decPlace_of_rejects _ d h]

/-- A character that records no error follows no held group, and its class can stand at its position. -/
theorem decCharRule_accepts (c : Nat) (d : Dec) (h : (decCharRule c d).dErr = false) :
    d.dErr = false ∧ d.dHoldValid = false ∧ ¬ d.Rejects (rev c) := by
  obtain ⟨he, hd⟩ | ⟨-, -, hd⟩ | ⟨he, hv, hd⟩ := decCharRule_cases c d
  · simp [hd, he] at h
  · simp [hd] at h
  · refine ⟨he, hv, fun hr => ?_⟩
    simp [hd, decPlace_of_rejects _ d hr] at h

/-! R77 for a PAD character at positions 2 and 3, with no error and nothing held. -/

theorem decCharRule_pad_at2 (c : Nat) (d : Dec) (he : d.dErr = false) (hv : d.dHoldValid = false)
    (hp : d.dPos = 2#2) (hc : rev c = .pad) :
    decCharRule c d = { d with dPos := 3, dActive := true, dPad2 := true } := by
  simp [decCharRule_of_clean _ _ he hv, decPlace, decAt2, decAdvance, hp, hc]

theorem decCharRule_one_pad_at3 (c : Nat) (b0 b1 b2 : Byte) (d : Dec) (he : d.dErr = false)
    (hv : d.dHoldValid = false) (hp : d.dPos = 3#2) (hp2 : d.dPad2 = false) (hc : rev c = .pad)
    (hu : unpack d.dV0 d.dV1 d.dV2 0#6 = (b0, b1, b2)) :
    decCharRule c d = { d with
      dPos := 0, dActive := true, dV0 := 0, dV1 := 0, dV2 := 0, dPad2 := false,
      dHoldValid := true, dHoldN := 2, dHoldBytes := b0 ++ b1 } := by
  rw [decCharRule_of_clean _ _ he hv, decAdvance_of_three _ (by simp [hp])]
  simp [decPlace, decAt3, Dec.hold, hp, hp2, hc, hu]

theorem decCharRule_two_pads_at3 (c : Nat) (b0 b1 b2 : Byte) (d : Dec) (he : d.dErr = false)
    (hv : d.dHoldValid = false) (hp : d.dPos = 3#2) (hp2 : d.dPad2 = true) (hc : rev c = .pad)
    (hu : unpack d.dV0 d.dV1 d.dV2 0#6 = (b0, b1, b2)) :
    decCharRule c d = { d with
      dPos := 0, dActive := true, dV0 := 0, dV1 := 0, dV2 := 0, dPad2 := false,
      dHoldValid := true, dHoldN := 1, dHoldBytes := b0 ++ 0x00#8 } := by
  rw [decCharRule_of_clean _ _ he hv, decAdvance_of_three _ (by simp [hp])]
  simp [decPlace, decAt3, Dec.hold, hp, hp2, hc, hu]

/-! R79 by the status, with its words written out (R56, R57). -/

theorem endStatus_of_pos (d : Dec) (h : d.dPos ≠ 0#2) : d.endStatus = .lengthError := if_pos h

theorem endStatus_of_err (d : Dec) (hp : d.dPos = 0#2) (he : d.dErr = true) :
    d.endStatus = .characterError := by
  simp [Dec.endStatus, hp, he]

theorem decFlush_of_not_ok (d : Dec) (h : d.endStatus ≠ .ok) : decFlush d = d := by
  simp [decFlush, h]

theorem decFlush_of_unheld (d : Dec) (h : d.dHoldValid = false) : decFlush d = d := by
  simp [decFlush, h]

theorem decFlush_of_held (d : Dec) (hok : d.endStatus = .ok) (h : d.dHoldValid = true) :
    decFlush d = d.push (decDataWord d.dHoldN (d.dHoldBytes.extractLsb' 8 8)
      (d.dHoldBytes.extractLsb' 0 8) 0) := by
  simp [decFlush, hok, h]

theorem heldWord_eq (n : BitVec 2) (hb : BitVec 16) :
    decDataWord n (hb.extractLsb' 8 8) (hb.extractLsb' 0 8) 0 = 0b00#2 ++ n ++ hb ++ 0x00#8 := by
  apply BitVec.eq_of_toNat_eq
  simp only [decDataWord, decOutWord, toNat_append_eq_add, BitVec.extractLsb'_toNat,
    BitVec.ofNat_eq_ofNat, BitVec.toNat_ofNat, Nat.shiftRight_eq_div_pow]
  omega

/-- R79's register transfer with its pushes by position, error and held group. -/
theorem decEndRule_eq_of_registers (d : Dec) :
    decEndRule d =
      { dPos := 0, dV0 := 0, dV1 := 0, dV2 := 0, dPad2 := false, dErr := false,
        dHoldValid := false, dHoldN := 0, dHoldBytes := 0, dActive := false,
        dQ := d.dQ ++
          (if d.dPos ≠ 0#2 then [0b10#2 ++ 0b00#2 ++ 0#24]
           else if d.dErr then [0b11#2 ++ 0b00#2 ++ 0#24]
           else if d.dHoldValid then
             [0b00#2 ++ d.dHoldN ++ d.dHoldBytes ++ 0x00#8, 0b01#2 ++ 0b00#2 ++ 0#24]
           else [0b01#2 ++ 0b00#2 ++ 0#24]) } := by
  rw [decEndRule_eq, decEndRule_dQ, Dec.reset]
  split_ifs with hp he hv
  · have hst := endStatus_of_pos d hp
    rw [decFlush_of_not_ok d (by simp [hst]), hst]
    rfl
  · have hst := endStatus_of_err d (by simpa using hp) he
    rw [decFlush_of_not_ok d (by simp [hst]), hst]
    rfl
  · have hst := (endStatus_ok d).mpr ⟨by simpa using hp, by simpa using he⟩
    rw [decFlush_of_held d hst hv, hst, heldWord_eq, Dec.push_dQ, List.append_assoc]
    rfl
  · have hst := (endStatus_ok d).mpr ⟨by simpa using hp, by simpa using he⟩
    rw [decFlush_of_unheld d (by simpa using hv), hst]
    rfl

/-! How many beats DEC_CHAR pushes, and what it leaves for an END (R91). -/

theorem decCharRule_pushes_count (c : Nat) (d : Dec) :
    ∃ l, (decCharRule c d).dQ = d.dQ ++ l ∧
      l.length = if d.dPos = 3#2 ∧ (rev c).isVal = true ∧ d.dPad2 = false ∧ d.dErr = false ∧
        d.dHoldValid = false then 1 else 0 := by
  split
  · next h =>
    obtain ⟨hp, hval, hp2, he, hv⟩ := h
    obtain ⟨v, hc⟩ := (CharClass.isVal_iff _).mp hval
    rw [decCharRule_val_at3 c v _ _ _ d he hv hp hp2 hc rfl]
    exact ⟨[_], rfl, rfl⟩
  · next h =>
    refine ⟨[], ?_, rfl⟩
    rw [List.append_nil]
    refine (decCharRule_pushes_only_full_group c d).resolve_right fun ⟨hp, hclean, hval⟩ => h ?_
    simpa [Dec.Spoiled, hp, hval, and_comm, and_left_comm] using hclean

/-- DEC_CHAR leaves an OK status and a held group exactly when its PAD completes a group. -/
theorem decCharRule_leaves_held_iff (c : Nat) (d : Dec) :
    (decCharRule c d).endStatus = .ok ∧ (decCharRule c d).dHoldValid = true ↔
      d.dPos = 3#2 ∧ d.dErr = false ∧ d.dHoldValid = false ∧ rev c = .pad := by
  have hlast : d.dPos + 1 = 0#2 ↔ d.dPos = 3#2 := by constructor <;> intro h <;> bv_omega
  rw [endStatus_ok, decCharRule_dPos, hlast]
  obtain ⟨he, hd⟩ | ⟨he, hv, hd⟩ | ⟨he, hv, hd⟩ := decCharRule_cases c d
  · simp [hd, he]
  · simp [hd, hv]
  · rw [hd, decAdvance_dErr, decAdvance_dHoldValid, and_assoc]
    refine and_congr_right fun hp => ?_
    cases hk : rev c <;> cases hp2 : d.dPad2 <;>
      simp [decPlace, decAt3, hp, hp2, he, hv]

/-- DEC_CHAR_LAST pushes what its two parts push: a full group and END, or a held group and END, or END
alone (R78, R91). -/
theorem decCharLastRule_pushes_count (c : Nat) (d : Dec) :
    ∃ l, (decCharLastRule c d).dQ = d.dQ ++ l ∧
      l.length = if d.dPos = 3#2 ∧ d.dErr = false ∧ d.dHoldValid = false ∧
        (((rev c).isVal = true ∧ d.dPad2 = false) ∨ rev c = .pad) then 2 else 1 := by
  obtain ⟨l, hl, hlen⟩ := decCharRule_pushes_count c d
  obtain ⟨m, hm, hmlen⟩ := decEndRule_pushes (decCharRule c d)
  refine ⟨l ++ m, by rw [decCharLastRule, hm, hl, List.append_assoc], ?_⟩
  simp only [decCharRule_leaves_held_iff] at hmlen
  rw [List.length_append, hlen, hmlen]
  cases hk : rev c with
  | pad | invalid => simp [CharClass.isVal]
  | val v =>
    simp only [CharClass.isVal, true_and, and_rotate (a := d.dPad2 = false), reduceCtorEq, and_false,
      or_false, if_false]
    split_ifs <;> rfl

end Sys2Proof.Machine

/-! ### A closed DEC message (41_decoder.md R84, R85) -/

namespace Sys2Proof.Machine

/-- NOP beats aside, a closed DEC message is its DEC_CHAR beats, and then R79 (R78, R80). -/
theorem decRun_of_decMessage (l : List Instr) (cs : List Nat) (d : Dec) (h : decMessage l = some cs) :
    decRun l d = decEndRule (decRun (cs.map .decChar) d) := by
  fun_induction decMessage l generalizing cs d with
  | case1 => cases h; rfl
  | case2 c => cases h; rfl
  | case3 l ih => exact ih cs d h
  | case4 c l ih =>
    obtain ⟨y, hy, rfl⟩ := Option.map_eq_some_iff.mp h
    exact ih y _ hy
  | case5 => cases h

/-- DEC is at the start of a group, with no error and nothing held. -/
structure Dec.Fresh (d : Dec) : Prop where
  pos : d.dPos = 0#2
  pad2 : d.dPad2 = false
  err : d.dErr = false
  unheld : d.dHoldValid = false

/-- Between messages DEC is fresh, pops undone or not. -/
theorem State.decView_fresh {s : State} (hs : s.dec.AtStart) : s.decView.Fresh :=
  have ⟨hp, _, _, _, hp2, he, hv, _, _, _⟩ := hs
  ⟨hp, hp2, he, hv⟩

theorem decRun_decChar (c : Nat) (l : List Instr) (d : Dec) :
    decRun (.decChar c :: l) d = decRun l (decCharRule c d) := rfl

/-! ### What DEC leaves of a message that decodes -/

/-- DEC after the first two VAL characters of a group. -/
def Dec.half (d : Dec) (v0 v1 : Sextet) : Dec :=
  { d with dPos := 2, dV0 := v0, dV1 := v1, dActive := true }

/-- DEC after a full group: its DATA beat is pushed, and the group is empty again. -/
def Dec.full (d : Dec) (w : DecOutWord) : Dec :=
  { d with
    dPos := 0, dV0 := 0, dV1 := 0, dV2 := 0, dPad2 := false, dActive := true, dQ := d.dQ ++ [w] }

@[simp] theorem Dec.full_dQ (d : Dec) (w : DecOutWord) : (d.full w).dQ = d.dQ ++ [w] := rfl

theorem Dec.Fresh.full {d : Dec} (hd : d.Fresh) (w : DecOutWord) : (d.full w).Fresh :=
  ⟨rfl, rfl, hd.err, hd.unheld⟩

/-- DEC after a padded group, whose n bytes are held. -/
def Dec.padded (d : Dec) (n : BitVec 2) (b0 b1 : Byte) : Dec :=
  { d with
    dPos := 0, dV0 := 0, dV1 := 0, dV2 := 0, dPad2 := false, dActive := true,
    dHoldValid := true, dHoldN := n, dHoldBytes := b0 ++ b1 }

theorem decRun_two_vals {a b : Nat} {v0 v1 : Sextet} {d : Dec} (hd : d.Fresh) (ha : rev a = .val v0)
    (hb : rev b = .val v1) (l : List Instr) :
    decRun (.decChar a :: .decChar b :: l) d = decRun l (d.half v0 v1) := by
  have first := decCharRule_val_at0 a v0 d hd.err hd.unheld hd.pos ha
  have second := decCharRule_val_at1 b v1
    { d with dPos := 1, dV0 := v0, dActive := true } hd.err hd.unheld rfl hb
  rw [decRun_decChar, decRun_decChar, first, second]
  rfl

/-- `decRun_full_group` on a fresh unit. -/
theorem decRun_full {a b c e : Nat} {v0 v1 v2 v3 : Sextet} {d : Dec} (hd : d.Fresh)
    (ha : rev a = .val v0) (hb : rev b = .val v1) (hc : rev c = .val v2) (he : rev e = .val v3)
    (l : List Instr) :
    decRun (.decChar a :: .decChar b :: .decChar c :: .decChar e :: l) d =
      decRun l (d.full (decDataWord 3 (byteOf (sextetWord v0 v1 v2 v3) 0)
        (byteOf (sextetWord v0 v1 v2 v3) 1) (byteOf (sextetWord v0 v1 v2 v3) 2))) :=
  decRun_full_group a b c e v0 v1 v2 v3 _ _ _ l d hd.pos hd.pad2 hd.err hd.unheld ha hb hc he rfl

theorem decRun_one_pad {a b c e : Nat} {v0 v1 v2 : Sextet} {d : Dec} (hd : d.Fresh)
    (ha : rev a = .val v0) (hb : rev b = .val v1) (hc : rev c = .val v2) (he : rev e = .pad)
    (l : List Instr) :
    decRun (.decChar a :: .decChar b :: .decChar c :: .decChar e :: l) d =
      decRun l (d.padded 2 (byteOf (sextetWord v0 v1 v2 0) 0) (byteOf (sextetWord v0 v1 v2 0) 1)) := by
  have third := decCharRule_val_at2 c v2 (d.half v0 v1) hd.err hd.unheld rfl hc
  have fourth := decCharRule_one_pad_at3 e _ _ _
    { d.half v0 v1 with dPos := 3, dV2 := v2 } hd.err hd.unheld rfl hd.pad2 he rfl
  rw [decRun_two_vals hd ha hb, decRun_decChar, decRun_decChar, third]
  exact congrArg (decRun l) fourth

theorem decRun_two_pads {a b c e : Nat} {v0 v1 : Sextet} {d : Dec} (hd : d.Fresh)
    (ha : rev a = .val v0) (hb : rev b = .val v1) (hc : rev c = .pad) (he : rev e = .pad)
    (l : List Instr) :
    decRun (.decChar a :: .decChar b :: .decChar c :: .decChar e :: l) d =
      decRun l (d.padded 1 (byteOf (sextetWord v0 v1 0 0) 0) 0x00#8) := by
  have third := decCharRule_pad_at2 c (d.half v0 v1) hd.err hd.unheld rfl hc
  have fourth := decCharRule_two_pads_at3 e _ _ _
    { d.half v0 v1 with dPos := 3, dPad2 := true } hd.err hd.unheld rfl rfl he rfl
  have hbyte : byteOf (sextetWord v0 v1 0 0) 0 = byteOf (sextetWord v0 v1 d.dV2 0) 0 := by
    rw [byteOf_sextetWord_zero, byteOf_sextetWord_zero]
  rw [decRun_two_vals hd ha hb, decRun_decChar, decRun_decChar, third, hbyte]
  exact congrArg (decRun l) fourth

/-- R79 after a padded group pushes its bytes. -/
theorem decFlush_padded {d : Dec} (hd : d.Fresh) (n : BitVec 2) (b0 b1 : Byte) :
    (d.padded n b0 b1).endStatus = .ok ∧
      (decFlush (d.padded n b0 b1)).dQ = d.dQ ++ [decDataWord n b0 b1 0] := by
  have hok : (d.padded n b0 b1).endStatus = .ok := (endStatus_ok _).mpr ⟨rfl, hd.err⟩
  have h0 : (b0 ++ b1).extractLsb' 8 8 = b0 := BitVec.extractLsb'_append_eq_left
  have h1 : (b0 ++ b1).extractLsb' 0 8 = b1 := BitVec.extractLsb'_append_eq_right
  refine ⟨hok, ?_⟩
  rw [decFlush_of_held _ hok rfl, Dec.push_dQ]
  simp only [Dec.padded, h0, h1]

/-- R84 for a message that decodes: at its end the status is OK, and the DATA beats pushed so far and the
held group carry its bytes. -/
theorem Decodes.decRun_ok {cs : List Nat} {y : List Byte} (h : Decodes cs y) (d : Dec) (hd : d.Fresh) :
    (decRun (cs.map .decChar) d).endStatus = .ok ∧
      ∃ data, (decFlush (decRun (cs.map .decChar) d)).dQ = d.dQ ++ data ∧
        (∀ w ∈ data, decKind w = 0b00#2) ∧ (data.map decBytes).flatten = y := by
  induction h generalizing d with
  | nil =>
    exact ⟨(endStatus_ok d).mpr ⟨hd.pos, hd.err⟩, [],
      by simp [decFlush_of_unheld d hd.unheld], by simp, rfl⟩
  | @fullGroup a b c e s y v0 v1 v2 v3 ha hb hc he _ ih =>
    simp only [List.map_cons]
    rw [decRun_full hd ha hb hc he]
    obtain ⟨hok, data, hq, hkind, hbytes⟩ := ih _ (hd.full _)
    rw [Dec.full_dQ, List.append_assoc] at hq
    refine ⟨hok, _, hq, ?_, ?_⟩
    · simpa [decDataWord] using hkind
    · simp [decDataWord, hbytes]
  | @onePad a b c e v0 v1 v2 ha hb hc he =>
    simp only [List.map_cons, List.map_nil]
    rw [decRun_one_pad hd ha hb hc he]
    obtain ⟨hok, hq⟩ := decFlush_padded hd 2 _ _
    exact ⟨hok, _, hq, by simp [decDataWord], by simp [decDataWord]⟩
  | @twoPads a b c e v0 v1 ha hb hc he =>
    simp only [List.map_cons, List.map_nil]
    rw [decRun_two_pads hd ha hb hc he]
    obtain ⟨hok, hq⟩ := decFlush_padded hd 1 _ _
    exact ⟨hok, _, hq, by simp [decDataWord], by simp [decDataWord]⟩

/-! ### A message that leaves no error decodes -/

theorem decRun_chars_keeps_err (cs : List Nat) (d : Dec) (h : d.dErr = true) :
    (decRun (cs.map .decChar) d).dErr = true := by
  induction cs generalizing d with
  | nil => exact h
  | cons c cs ih => exact ih _ (decCharRule_keeps_err c d h)

/-- The first character of a run that ends without an error meets no held group, has a class that can
stand at its position, and leaves no error. -/
theorem decRun_chars_accepts {c : Nat} {cs : List Nat} {d : Dec}
    (h : (decRun ((c :: cs).map .decChar) d).dErr = false) :
    d.dHoldValid = false ∧ ¬ d.Rejects (rev c) := by
  have hc : (decCharRule c d).dErr = false := by
    by_contra herr
    have hend := decRun_chars_keeps_err cs (decCharRule c d) (by simpa using herr)
    exact absurd h (by simpa [decBeatRule] using hend)
  exact (decCharRule_accepts c d hc).2

/-- Nothing follows a padded group without an error (cause C-d of R107). -/
theorem eq_nil_of_decRun_padded {cs : List Nat} {d : Dec} {n : BitVec 2} {b0 b1 : Byte}
    (h : (decRun (cs.map .decChar) (d.padded n b0 b1)).dErr = false) : cs = [] := by
  cases cs with
  | nil => rfl
  | cons c cs => exact absurd (decRun_chars_accepts h).1 (by simp [Dec.padded])

/-! The classes that can stand at each position. -/

theorem val_of_accepts_at_start {d : Dec} {k : CharClass} (hp : d.dPos = 0#2 ∨ d.dPos = 1#2)
    (h : ¬ d.Rejects k) : ∃ v, k = .val v := by
  cases k with
  | val v => exact ⟨v, rfl⟩
  | pad => exact absurd (.inr (.inl ⟨hp, rfl⟩)) h
  | invalid => exact absurd (.inl rfl) h

theorem val_or_pad_of_accepts {d : Dec} {k : CharClass} (h : ¬ d.Rejects k) :
    (∃ v, k = .val v) ∨ k = .pad := by
  cases k with
  | val v => exact .inl ⟨v, rfl⟩
  | pad => exact .inr rfl
  | invalid => exact absurd (.inl rfl) h

theorem pad_of_accepts_after_pad {d : Dec} {k : CharClass} (hp : d.dPos = 3#2) (hp2 : d.dPad2 = true)
    (h : ¬ d.Rejects k) : k = .pad := by
  cases k with
  | val v => exact absurd (.inr (.inr ⟨hp, hp2, rfl⟩)) h
  | pad => rfl
  | invalid => exact absurd (.inl rfl) h

/-- R77 is as strict as R82: whole groups that leave no error decode. -/
theorem decodes_of_decRun_no_err (cs : List Nat) (d : Dec) (hd : d.Fresh) (hlen : cs.length % 4 = 0)
    (h : (decRun (cs.map .decChar) d).dErr = false) : ∃ y, Decodes cs y := by
  induction cs using bytesOf.induct generalizing d with
  | case1 a b c e cs ih =>
    have hlen' : cs.length % 4 = 0 := by simp only [List.length_cons] at hlen; omega
    obtain ⟨v0, ha⟩ := val_of_accepts_at_start (.inl hd.pos) (decRun_chars_accepts h).2
    have hrest : (decRun ((b :: c :: e :: cs).map .decChar) (decCharRule a d)).dErr = false := h
    obtain ⟨v1, hb⟩ := val_of_accepts_at_start (.inr (by simp [hd.pos])) (decRun_chars_accepts hrest).2
    have hhalf : (decRun ((c :: e :: cs).map .decChar) (d.half v0 v1)).dErr = false := by
      simpa only [List.map_cons, decRun_two_vals hd ha hb] using h
    have hlast : (decCharRule c (d.half v0 v1)).dPos = 3#2 := decCharRule_dPos _ _
    have haccept := (decRun_chars_accepts (d := decCharRule c (d.half v0 v1)) hhalf).2
    simp only [List.map_cons] at h
    obtain ⟨v2, hc⟩ | hc := val_or_pad_of_accepts (decRun_chars_accepts hhalf).2
    · obtain ⟨v3, he⟩ | he := val_or_pad_of_accepts haccept
      · rw [decRun_full hd ha hb hc he] at h
        obtain ⟨y, hy⟩ := ih _ (hd.full _) hlen' h
        exact ⟨_, .fullGroup ha hb hc he hy⟩
      · rw [decRun_one_pad hd ha hb hc he] at h
        obtain rfl := eq_nil_of_decRun_padded h
        exact ⟨_, .onePad ha hb hc he⟩
    · have hpad2 : (decCharRule c (d.half v0 v1)).dPad2 = true := by
        rw [decCharRule_pad_at2 c (d.half v0 v1) hd.err hd.unheld rfl hc]
      have he := pad_of_accepts_after_pad hlast hpad2 haccept
      rw [decRun_two_pads hd ha hb hc he] at h
      obtain rfl := eq_nil_of_decRun_padded h
      exact ⟨_, .twoPads ha hb hc he⟩
  | case2 cs hshort =>
    obtain rfl := eq_nil_of_no_group hlen hshort
    exact ⟨[], .nil⟩

/-- DEC's status at the end of a message is DECODE's (R84). -/
theorem endStatus_decRun (cs : List Nat) (d : Dec) (hd : d.Fresh) :
    (decRun (cs.map .decChar) d).endStatus = (decodeMsg cs).status := by
  have hpos : (decRun (cs.map .decChar) d).dPos = 0#2 ↔ cs.length % 4 = 0 := by
    rw [decRun_chars_dPos, hd.pos]
    constructor <;> intro h <;> bv_omega
  obtain ⟨hlen, hst⟩ | ⟨-, ⟨y, hy⟩, hst⟩ | ⟨hlen, hnot, hst⟩ := decodeMsg_status cs <;> rw [hst]
  · exact endStatus_of_pos _ (mt hpos.mp hlen)
  · exact (hy.decRun_ok d hd).1
  · refine endStatus_of_err _ (hpos.mpr hlen) ?_
    by_contra herr
    exact hnot (decodes_of_decRun_no_err cs d hd hlen (by simpa using herr))

/-- What a closed message pushes, over any interleaving, and that DEC is between messages again (R84, R89). -/
theorem dec_closed_message (s s' : State) (acts : List HostAction) (cs : List Nat)
    (hs : s.dec.AtStart) (hr : .reset ∉ acts) (hcs : decMessage (decBeatsOf s.cfg acts) = some cs)
    (h : runActions s acts = .next s') :
    s'.dec.AtStart ∧ s'.decStream =
      (decFlush (decRun (cs.map .decChar) s.decView)).dQ ++ [decEndWord (decodeMsg cs).status.code] := by
  have hview : decEndRule (decRun (cs.map .decChar) s.decView) = s'.decView := by
    rw [← decRun_of_decMessage _ cs _ hcs]
    exact runActions_decView acts s s' hr h
  have hfresh : s.decView.Fresh := State.decView_fresh hs
  have hstart : s'.decView.AtStart := by
    rw [← hview]
    exact ⟨rfl, rfl, rfl, rfl, rfl, rfl, rfl, rfl, rfl, rfl⟩
  refine ⟨hstart, ?_⟩
  rw [← State.decView_dQ, ← hview, decEndRule_dQ, endStatus_decRun cs _ hfresh]

/-- R85: when the status is an error, the held group is dropped. -/
theorem dec_failed_message (s s' : State) (acts : List HostAction) (cs : List Nat)
    (hs : s.dec.AtStart) (hr : .reset ∉ acts) (hcs : decMessage (decBeatsOf s.cfg acts) = some cs)
    (h : runActions s acts = .next s') (hfail : (decodeMsg cs).status ≠ .ok) :
    s'.decStream = s.decStream ++ fullGroupBeats cs ++ [decEndWord (decodeMsg cs).status.code] := by
  have hfresh : s.decView.Fresh := State.decView_fresh hs
  obtain ⟨-, hq⟩ := dec_closed_message s s' acts cs hs hr hcs h
  rw [hq, decFlush_of_not_ok _ (by rwa [endStatus_decRun cs _ hfresh]),
    decRun_chars_dQ cs _ hfresh.pos hfresh.pad2 hfresh.err hfresh.unheld, State.decView_dQ]

end Sys2Proof.Machine

/-! ### The statements of 41_decoder.md -/

namespace Sys2Proof.Machine

/-- Settles O49: a message that decodes by `Decodes.decRun_ok`, any other by its leading full groups. -/
theorem decComputesDecode : Obligations.DecComputesDecode := by
  intro s s' acts cs hs hr hcs h
  obtain ⟨hstart, hq⟩ := dec_closed_message s s' acts cs hs hr hcs h
  refine ⟨hstart, ?_⟩
  by_cases hdec : ∃ y, decodeMsg cs = .ok y
  · obtain ⟨y, hy⟩ := hdec
    obtain ⟨-, data, hdata, hkind, hbytes⟩ :=
      (decodes_of_decodeMsg hy).decRun_ok s.decView (State.decView_fresh hs)
    refine ⟨data, by rw [hq, hdata, State.decView_dQ], hkind, fun bytes hb => ?_⟩
    rw [hbytes]
    exact DecResult.ok.inj (hy.symm.trans hb)
  · have hfail : (decodeMsg cs).status ≠ .ok := mt (DecResult.status_eq_ok_iff _).mp hdec
    exact ⟨fullGroupBeats cs, dec_failed_message s s' acts cs hs hr hcs h hfail,
      fullGroupBeats_are_data cs, fun bytes hb => absurd ⟨bytes, hb⟩ hdec⟩

/-- Settles O50: with an error status the held group is dropped, and the rest is `decRun_chars_dQ`. -/
theorem failedMessagePushesOnlyItsFullGroups : Obligations.FailedMessagePushesOnlyItsFullGroups :=
  dec_failed_message

/-- Settles O54: the functions by `decodes_encodeMsg`. ENC's DATA beats carry ENCODE of x (O48), so DEC
answers DECODE of it (O49), which is x. -/
theorem decodeInvertsEncode : Obligations.DecodeInvertsEncode := by
  have hinv : ∀ x, decodeMsg (codes (encodeMsg x)) = .ok x := fun x =>
    (decodeMsg_eq_ok_iff _ _).mpr (decodes_encodeMsg x)
  refine ⟨hinv, ?_⟩
  intro s t t' actsE actsD x data hsE hrE hx hE hdata htD hrD hcs hD
  obtain ⟨-, data', hdata', -, -, hlanes⟩ := encComputesEncode s t actsE x hsE hrE hx hE
  obtain rfl : data = data' := by
    rw [hdata] at hdata'
    simpa using hdata'
  rw [hlanes] at hcs
  obtain ⟨-, out, hout, hkind, hbytes⟩ := decComputesDecode t t' actsD _ htD hrD hcs hD
  rw [hinv] at hout
  exact ⟨out, hout, hkind, hbytes x (hinv x)⟩

/-- Settles O56: both parts group by group, the second through CANON. -/
theorem encodeOfDecodeIsTheCanonicalForm : Obligations.EncodeOfDecodeIsTheCanonicalForm := by
  intro s y h
  have hs := decodes_of_decodeMsg h
  rw [hs.codes_encodeMsg]
  exact ⟨rfl, hs.canon_eq_self_iff⟩

/-- Settles O55: the bytes of the last group hold the kept bits alone. -/
theorem nonZeroPaddingBitsAreAccepted : Obligations.NonZeroPaddingBitsAreAccepted := by
  intro l a b b' c c' v v' y
  simp only [decodeMsg_eq_ok_iff]
  exact ⟨fun hb hb' hkept => Decodes.replace_last_group rfl (Decodes.change_two_pads hb hb' hkept) l y,
    fun hc hc' hkept => Decodes.replace_last_group rfl (Decodes.change_one_pad hc hc' hkept) l y⟩

/-- Settles O23: each row is R77's register transfer at its position and class, on a ready unit. -/
theorem decCharTable : Obligations.DecCharTable := by
  refine ⟨fun p c hc => by simpa [opcode, decBeat] using decodeDec_opcode p false false c hc, ?_⟩
  rintro s c d hready rfl
  have row : ∀ e, decCharRule c s.dec = e → exec (.decChar c) s = .next { s with dec := e } :=
    fun e => exec_dec_of_ready (.decChar c) s e rfl hready
  refine ⟨fun he hp => row _ ?_, fun he hp => row _ ?_, fun he hv hp => row _ ?_,
    fun he hv hp => row _ ?_,
    fun he hv => ⟨fun v hp hc => row _ ?_, fun hp hc => row _ ?_, fun v hp hc => row _ ?_,
      fun hp hc => row _ ?_, fun v hp hc => row _ ?_, fun hp hc => row _ ?_, fun hp hc => row _ ?_,
      fun v b0 b1 b2 hp hc hp2 hu => row _ ?_, fun hp hc => row _ ?_,
      fun b0 b1 b2 hp hc hp2 hu => row _ ?_, fun b0 b1 b2 hp hc hp2 hu => row _ ?_⟩⟩
  · rw [decCharRule_of_err c _ he, decAdvance_of_ne_three _ hp]
  · rw [decCharRule_of_err c _ he, decAdvance_of_three _ hp]
  · rw [decCharRule_of_held c _ he hv, decAdvance_of_ne_three s.dec.setErr.dropHold hp]; rfl
  · rw [decCharRule_of_held c _ he hv, decAdvance_of_three s.dec.setErr.dropHold hp]; rfl
  · exact decCharRule_val_at0 c v _ he hv hp hc
  · have hr : s.dec.Rejects (rev c) := by simpa [Dec.Rejects, hp] using hc.symm
    rw [decCharRule_of_rejects c _ he hv hr, decAdvance_of_ne_three _ (by simp [hp])]
    simp [hp, Dec.setErr]
  · exact decCharRule_val_at1 c v _ he hv hp hc
  · have hr : s.dec.Rejects (rev c) := by simpa [Dec.Rejects, hp] using hc.symm
    rw [decCharRule_of_rejects c _ he hv hr, decAdvance_of_ne_three _ (by simp [hp])]
    simp [hp, Dec.setErr]
  · exact decCharRule_val_at2 c v _ he hv hp hc
  · exact decCharRule_pad_at2 c _ he hv hp hc
  · rw [decCharRule_of_rejects c _ he hv (.inl hc), decAdvance_of_ne_three _ (by simp [hp])]
    simp [hp, Dec.setErr]
  · exact decCharRule_val_at3 c v b0 b1 b2 _ he hv hp hp2 hc hu
  · have hr : s.dec.Rejects (rev c) := hc.imp id fun ⟨hval, hp2⟩ => .inr ⟨hp, hp2, hval⟩
    rw [decCharRule_of_rejects c _ he hv hr, decAdvance_of_three s.dec.setErr hp]
    rfl
  · exact decCharRule_one_pad_at3 c b0 b1 b2 _ he hv hp hp2 hc hu
  · exact decCharRule_two_pads_at3 c b0 b1 b2 _ he hv hp hp2 hc hu

/-- Settles O36: the beats a DEC step appends are those its register transfer pushes. For DEC_CHAR_LAST
they are those of its two parts, and the END's larger count needs a group that DEC_CHAR just held. -/
theorem decBeatsPushTheirCounts : Obligations.DecBeatsPushTheirCounts := by
  intro i s s' hi h
  rw [exec_eq_acceptDec i s hi, acceptDec_next] at h
  obtain ⟨-, rfl⟩ := h
  cases i with
  | decChar c => exact decCharRule_pushes_count c s.dec
  | decEnd =>
    obtain ⟨l, hl, hlen⟩ := decEndRule_pushes s.dec
    exact ⟨l, hl, by simpa only [endStatus_ok, and_assoc] using hlen⟩
  | decCharLast c => exact decCharLastRule_pushes_count c s.dec
  | decNop => exact ⟨[], (List.append_nil _).symm, rfl⟩
  | encByte _ | encByteLast _ | encEnd | encNop => cases hi

/-- Settles O24: R79's register transfer on a ready unit. -/
theorem decEndResult : Obligations.DecEndResult :=
  ⟨fun p c hc => decodeDec_opcode p true true c hc, fun s hready =>
    exec_dec_of_ready .decEnd s _ rfl hready (decEndRule_eq_of_registers s.dec)⟩

/-- Settles O25: R78's register transfer is R79's on what R77's leaves. -/
theorem decCharLastResult : Obligations.DecCharLastResult :=
  ⟨fun p c hc => decodeDec_opcode p true false c hc, fun s c hready =>
    ⟨_, exec_dec_of_ready (.decChar c) s _ rfl hready rfl,
      exec_dec_of_ready (.decCharLast c) s _ rfl hready
        (decEndRule_eq_of_registers (decCharRule c s.dec))⟩⟩

/-- Settles O26: the register transfer of DEC_NOP leaves the registers as they are. -/
theorem decNopResult : Obligations.DecNopResult :=
  ⟨fun p c hc => decodeDec_opcode p false true c hc, fun s hready =>
    exec_dec_of_ready .decNop s _ rfl hready rfl⟩

end Sys2Proof.Machine

/-! ### The host's actions one by one (42_handshake.md R94 to R98) -/

namespace Sys2Proof.Machine

/-- With an action pending, a step performs it on the state without it. -/
theorem step_of_pending (s : State) (a : HostAction) (rest : List HostAction)
    (h : s.env.actions = a :: rest) : step s = perform a (s.withActions rest) := by
  simp only [step, takeAction, h]

theorem exec_enc_of_unready (i : Instr) (s : State) (hi : i.isEnc = true)
    (hs : s.encInReady = false) : exec i s = .refused .encNotReady := by
  rw [exec_eq_acceptEnc i s hi, acceptEnc, hs]
  rfl

theorem exec_dec_of_unready (i : Instr) (s : State) (hi : i.isEnc = false)
    (hs : s.decInReady = false) : exec i s = .refused .decNotReady := by
  rw [exec_eq_acceptDec i s hi, acceptDec, hs]
  rfl

theorem popEnc_of_empty (s : State) (h : s.enc.eQ = []) : popEnc s = .refused .encOutEmpty := by
  simp only [popEnc, h]

theorem popDec_of_empty (s : State) (h : s.dec.dQ = []) : popDec s = .refused .decOutEmpty := by
  simp only [popDec, h]

/-- POP_E is enabled exactly while a beat is queued (R96). -/
theorem popEnc_enabled_iff (s : State) : (∃ t, popEnc s = .next t) ↔ s.encOutValid = true := by
  simp only [popEnc_next, State.encOutValid, decide_eq_true_eq]
  constructor
  · rintro ⟨t, w, q, hq, -⟩
    simp [hq]
  · intro h
    obtain ⟨w, q, hq⟩ := List.exists_cons_of_length_pos h
    exact ⟨_, w, q, hq, rfl⟩

/-- POP_D is enabled exactly while a beat is queued (R96). -/
theorem popDec_enabled_iff (s : State) : (∃ t, popDec s = .next t) ↔ s.decOutValid = true := by
  simp only [popDec_next, State.decOutValid, decide_eq_true_eq]
  constructor
  · rintro ⟨t, w, q, hq, -⟩
    simp [hq]
  · intro h
    obtain ⟨w, q, hq⟩ := List.exists_cons_of_length_pos h
    exact ⟨_, w, q, hq, rfl⟩

theorem decodeDec_of_too_wide (p : Params) (dw : Nat) (h : 2 ^ (p.charW + 2) ≤ dw) :
    decodeDec p dw = .error .decWordTooWide :=
  if_neg (Nat.not_lt.mpr h)

/-! ### Full queues (42_handshake.md R97, R101) -/

theorem perform_keeps_I10 (a : HostAction) (s t : State) (hs : s.I10) (h : perform a s = .next t) :
    t.I10 := by
  have ⟨henc, hdec⟩ := hs
  obtain ⟨ew, -, he⟩ | ⟨dw, i, -, -, he⟩ | ⟨-, he⟩ | ⟨-, he⟩ | ⟨-, rfl⟩ := perform_next_cases a s t h
  · exact exec_keeps_I10 _ s t hs he
  · exact exec_keeps_I10 i s t hs he
  · obtain ⟨w, q, hq, rfl⟩ := (popEnc_next s t).mp he
    rw [hq, List.length_cons] at henc
    exact ⟨Nat.le_of_succ_le henc, hdec⟩
  · obtain ⟨w, q, hq, rfl⟩ := (popDec_next s t).mp he
    rw [hq, List.length_cons] at hdec
    exact ⟨henc, Nat.le_of_succ_le hdec⟩
  · exact ⟨Nat.zero_le _, Nat.zero_le _⟩

/-- A beat appends to its own unit's stream, and a pop only moves a beat along the stream to the host. -/
theorem perform_extends_streams (a : HostAction) (s t : State) (ha : a ≠ .reset)
    (h : perform a s = .next t) :
    (∃ l, t.encStream = s.encStream ++ l) ∧ ∃ l, t.decStream = s.decStream ++ l := by
  have hencSame : ∃ l, s.encStream = s.encStream ++ l := ⟨[], (List.append_nil _).symm⟩
  have hdecSame : ∃ l, s.decStream = s.decStream ++ l := ⟨[], (List.append_nil _).symm⟩
  obtain ⟨ew, u, -, hu, rfl⟩ | ⟨dw, i, -, -, rfl⟩ | ⟨w, q, -, hq, rfl⟩ | ⟨w, q, -, hq, rfl⟩ |
    ⟨rfl, -⟩ := perform_next_effect a s t h
  · obtain ⟨l, hl, -⟩ := encBeatRule_pushes_le_two _ s.enc u hu
    exact ⟨⟨l, by simp [State.encStream, hl]⟩, hdecSame⟩
  · obtain ⟨l, hl, -⟩ := decBeatRule_pushes_le_two i s.dec
    exact ⟨hencSame, l, by simp [State.decStream, hl]⟩
  · exact ⟨⟨[], by simp [State.encStream, hq]⟩, hdecSame⟩
  · exact ⟨hencSame, [], by simp [State.decStream, hq]⟩
  · exact absurd rfl ha

/-- A beat of DEC does not write ENC, and while ENC is not ready it accepts none of its own. -/
theorem exec_keeps_unready_enc (i : Instr) (s t : State) (h : exec i s = .next t)
    (hs : s.encInReady = false) : t.enc = s.enc := by
  cases hi : i.isEnc with
  | true => rw [exec_enc_of_unready i s hi hs] at h; cases h
  | false =>
    obtain ⟨-, -, -, henc⟩ := beatsWriteOnlyTheirOwnUnit i s t h
    exact henc hi

/-- A beat of ENC does not write DEC, and while DEC is not ready it accepts none of its own. -/
theorem exec_keeps_unready_dec (i : Instr) (s t : State) (h : exec i s = .next t)
    (hs : s.decInReady = false) : t.dec = s.dec := by
  cases hi : i.isEnc with
  | true =>
    obtain ⟨-, -, hdec, -⟩ := beatsWriteOnlyTheirOwnUnit i s t h
    exact hdec hi
  | false => rw [exec_dec_of_unready i s hi hs] at h; cases h

theorem perform_keeps_unready_enc (a : HostAction) (s t : State) (h : perform a s = .next t)
    (hr : a ≠ .reset) (hpop : a ≠ .popE) (hs : s.encInReady = false) : t.enc = s.enc := by
  obtain ⟨ew, -, he⟩ | ⟨dw, i, -, -, he⟩ | ⟨rfl, -⟩ | ⟨-, he⟩ | ⟨rfl, -⟩ := perform_next_cases a s t h
  · exact exec_keeps_unready_enc _ s t he hs
  · exact exec_keeps_unready_enc i s t he hs
  · exact absurd rfl hpop
  · obtain ⟨w, q, -, rfl⟩ := (popDec_next s t).mp he
    rfl
  · exact absurd rfl hr

theorem perform_keeps_unready_dec (a : HostAction) (s t : State) (h : perform a s = .next t)
    (hr : a ≠ .reset) (hpop : a ≠ .popD) (hs : s.decInReady = false) : t.dec = s.dec := by
  obtain ⟨ew, -, he⟩ | ⟨dw, i, -, -, he⟩ | ⟨-, he⟩ | ⟨rfl, -⟩ | ⟨rfl, -⟩ := perform_next_cases a s t h
  · exact exec_keeps_unready_dec _ s t he hs
  · exact exec_keeps_unready_dec i s t he hs
  · obtain ⟨w, q, -, rfl⟩ := (popEnc_next s t).mp he
    rfl
  · exact absurd rfl hpop
  · exact absurd rfl hr

/-! ### Draining the queues (42_handshake.md R96, R101) -/

/-- With legal parameters an empty queue has room for the two beats of R93. -/
theorem hasRoom_of_empty (p : Params) (hp : p.WF) : hasRoom p 0 = true :=
  (hasRoom_iff p 0).mpr (by simpa using hp.2)

/-- The state once the host has popped every beat of ENC's queue. -/
def State.drainedEnc (s : State) : State := s.moveEnc { s.enc with eQ := [] } s.enc.eQ

/-- The state once the host has popped every beat of DEC's queue. -/
def State.drainedDec (s : State) : State := s.moveDec { s.dec with dQ := [] } s.dec.dQ

theorem State.drainedEnc_of_empty (s : State) (h : s.enc.eQ = []) : s.drainedEnc = s := by
  rw [State.drainedEnc, h, State.moveEnc_nil, ← h]
  rfl

theorem State.drainedEnc_after_pop (s : State) (w : EncOutWord) (q : List EncOutWord)
    (h : s.enc.eQ = w :: q) :
    (s.moveEnc { s.enc with eQ := q } [w]).drainedEnc = s.drainedEnc := by
  simp [State.drainedEnc, State.moveEnc, State.withEnc, State.withEnv, h]

/-- As many pops as ENC has queued beats lead to the drained state, whatever follows them. -/
theorem runActions_drainEnc (s s' : State) (l : List HostAction)
    (h : runActions s.drainedEnc l = .next s') :
    runActions s (List.replicate s.enc.eQ.length .popE ++ l) = .next s' := by
  generalize hq : s.enc.eQ = q
  induction q generalizing s with
  | nil => rwa [State.drainedEnc_of_empty s hq] at h
  | cons w q ih =>
    rw [List.length_cons, List.replicate_succ, List.cons_append, runActions_cons_next]
    refine ⟨(s.withActions _).moveEnc { s.enc with eQ := q } [w],
      (popEnc_next _ _).mpr ⟨w, q, hq, rfl⟩, ih _ ?_ rfl⟩
    exact (congrArg (runActions · l) (State.drainedEnc_after_pop (s.withActions _) w q hq)).trans h

theorem State.drainedDec_of_empty (s : State) (h : s.dec.dQ = []) : s.drainedDec = s := by
  rw [State.drainedDec, h, State.moveDec_nil, ← h]
  rfl

theorem State.drainedDec_after_pop (s : State) (w : DecOutWord) (q : List DecOutWord)
    (h : s.dec.dQ = w :: q) :
    (s.moveDec { s.dec with dQ := q } [w]).drainedDec = s.drainedDec := by
  simp [State.drainedDec, State.moveDec, State.withDec, State.withEnv, h]

/-- As many pops as DEC has queued beats lead to the drained state, whatever follows them. -/
theorem runActions_drainDec (s s' : State) (l : List HostAction)
    (h : runActions s.drainedDec l = .next s') :
    runActions s (List.replicate s.dec.dQ.length .popD ++ l) = .next s' := by
  generalize hq : s.dec.dQ = q
  induction q generalizing s with
  | nil => rwa [State.drainedDec_of_empty s hq] at h
  | cons w q ih =>
    rw [List.length_cons, List.replicate_succ, List.cons_append, runActions_cons_next]
    refine ⟨(s.withActions _).moveDec { s.dec with dQ := q } [w],
      (popDec_next _ _).mpr ⟨w, q, hq, rfl⟩, ih _ ?_ rfl⟩
    exact (congrArg (runActions · l) (State.drainedDec_after_pop (s.withActions _) w q hq)).trans h

/-! ### Every sequence of beats can be delivered (42_handshake.md R101)

The host drains both queues before each beat, and once more at the end. -/

/-- The pops that drain both queues. -/
def State.drainActions (s : State) : List HostAction :=
  List.replicate s.enc.eQ.length .popE ++ List.replicate s.dec.dQ.length .popD

/-- The state once the host has popped every queued beat. -/
def State.drained (s : State) : State := s.drainedEnc.drainedDec

theorem runActions_drain (s s' : State) (l : List HostAction)
    (h : runActions s.drained l = .next s') : runActions s (s.drainActions ++ l) = .next s' := by
  rw [State.drainActions, List.append_assoc]
  exact runActions_drainEnc s s' _ (runActions_drainDec s.drainedEnc s' l h)

theorem State.drained_inv {s : State} (hs : s.Inv) : s.drained.Inv :=
  have ⟨hwf, henc, hdec, _⟩ := hs
  ⟨hwf, henc, hdec, Nat.zero_le _, Nat.zero_le _⟩

theorem reset_not_mem_drainActions (s : State) : .reset ∉ s.drainActions := by
  simp [State.drainActions, List.mem_replicate]

theorem encBeatsOf_append (l m : List HostAction) :
    encBeatsOf (l ++ m) = encBeatsOf l ++ encBeatsOf m := by
  induction l with
  | nil => rfl
  | cons a l ih => cases a <;> simp [encBeatsOf, ih]

theorem decBeatsOf_append (p : Params) (l m : List HostAction) :
    decBeatsOf p (l ++ m) = decBeatsOf p l ++ decBeatsOf p m := by
  induction l with
  | nil => rfl
  | cons a l ih =>
    cases a with
    | pushD dw => cases hd : decodeDec p dw <;> simp [decBeatsOf, hd, ih]
    | pushE _ | popE | popD | reset => exact ih

/-- A pop offers no beat. -/
theorem beatsOf_replicate_pop (p : Params) (n : Nat) (a : HostAction) (ha : a = .popE ∨ a = .popD) :
    encBeatsOf (List.replicate n a) = [] ∧ decBeatsOf p (List.replicate n a) = [] := by
  induction n with
  | zero => exact ⟨rfl, rfl⟩
  | succ n ih => obtain rfl | rfl := ha <;> exact ih

theorem beatsOf_drainActions (p : Params) (s : State) :
    encBeatsOf s.drainActions = [] ∧ decBeatsOf p s.drainActions = [] := by
  obtain ⟨henc, hdec⟩ := beatsOf_replicate_pop p s.enc.eQ.length .popE (.inl rfl)
  obtain ⟨henc', hdec'⟩ := beatsOf_replicate_pop p s.dec.dQ.length .popD (.inr rfl)
  rw [State.drainActions, encBeatsOf_append, decBeatsOf_append, henc, henc', hdec, hdec']
  exact ⟨rfl, rfl⟩

theorem pushOf_ne_reset (p : Params) (i : Instr) : .reset ≠ pushOf p i := by
  unfold pushOf HostAction.ofWord
  split <;> simp

/-- Offering the word of a well-formed beat runs the beat (R94). -/
theorem perform_pushOf (i : Instr) (s : State) (hwf : i.wf s.cfg = true) :
    perform (pushOf s.cfg i) s = exec i s := by
  cases hi : i.isEnc with
  | true =>
    obtain ⟨last, null, b, hb, he⟩ := exists_encode_eq_encWord s.cfg i hi
    simp [pushOf, he, HostAction.ofWord, perform, decodeEnc_encWord, ← hb]
  | false =>
    obtain ⟨last, null, c, hb, he, hc⟩ := exists_encode_eq_decWord s.cfg i hi
    simp [pushOf, he, HostAction.ofWord, perform, decodeDec_decWord s.cfg _ _ c (hc hwf), ← hb]

/-- A beat has no part in the pending actions. -/
theorem exec_withActions (i : Instr) (s t : State) (l : List HostAction) (h : exec i s = .next t) :
    exec i (s.withActions l) = .next (t.withActions l) := by
  cases hi : i.isEnc with
  | true =>
    rw [exec_eq_acceptEnc _ _ hi, acceptEnc_next] at h ⊢
    obtain ⟨hready, u, hu, rfl⟩ := h
    exact ⟨hready, u, hu, rfl⟩
  | false =>
    rw [exec_eq_acceptDec _ _ hi, acceptDec_next] at h ⊢
    obtain ⟨hready, rfl⟩ := h
    exact ⟨hready, rfl⟩

/-- Two ready units with a legal `e_cnt` accept every beat (R93, R94). -/
theorem exists_exec_next (i : Instr) (s : State) (hcnt : s.enc.I1) (henc : s.encInReady = true)
    (hdec : s.decInReady = true) : ∃ t, exec i s = .next t := by
  cases hi : i.isEnc with
  | true =>
    cases hu : encBeatRule i s.enc with
    | ok u => exact ⟨_, exec_enc_of_ready i s u hi henc hu⟩
    | error f => exact absurd hu (encBeatRule_ne_error i s.enc f hcnt)
  | false => exact ⟨_, exec_dec_of_ready i s _ hi hdec rfl⟩

theorem exists_exec_drained (i : Instr) (s : State) (hs : s.Inv) :
    ∃ t, exec i s.drained = .next t := by
  obtain ⟨hwf, ⟨hcnt, -⟩, -⟩ := hs
  exact exists_exec_next i s.drained hcnt (hasRoom_of_empty s.cfg hwf) (hasRoom_of_empty s.cfg hwf)

/-- From every state that meets the invariants, some host actions offer a given list of beats, complete,
and leave both queues empty. -/
theorem exists_run_of_beats (l : List Instr) (s : State) (hs : s.Inv)
    (hl : ∀ i ∈ l, i.wf s.cfg = true) :
    ∃ acts s', .reset ∉ acts ∧ encBeatsOf acts = l.filter Instr.isEnc ∧
      decBeatsOf s.cfg acts = l.filter (!·.isEnc) ∧ runActions s acts = .next s' ∧
      s'.enc.eQ = [] ∧ s'.dec.dQ = [] := by
  induction l generalizing s with
  | nil =>
    obtain ⟨henc, hdec⟩ := beatsOf_drainActions s.cfg s
    have hrun := runActions_drain s _ [] (runActions_nil s.drained)
    rw [List.append_nil] at hrun
    exact ⟨s.drainActions, _, reset_not_mem_drainActions s, henc, hdec, hrun, rfl, rfl⟩
  | cons i l ih =>
    obtain ⟨hi, hl⟩ := List.forall_mem_cons.mp hl
    obtain ⟨t, ht⟩ := exists_exec_drained i s hs
    obtain ⟨hcfg : t.cfg = s.cfg, -⟩ := beatsWriteOnlyTheirOwnUnit i s.drained t ht
    obtain ⟨acts, s', hr, henc, hdec, hrun, hempty⟩ :=
      ih t (exec_keeps_inv i _ t (State.drained_inv hs) ht) (by rwa [hcfg])
    have hpush : perform (pushOf s.cfg i) (s.drained.withActions acts) =
        .next (t.withActions acts) :=
      (perform_pushOf i (s.drained.withActions acts) hi).trans (exec_withActions i _ t acts ht)
    obtain ⟨hencDrain, hdecDrain⟩ := beatsOf_drainActions s.cfg s
    refine ⟨s.drainActions ++ ([i].map (pushOf s.cfg) ++ acts), s', ?_, ?_, ?_, ?_, hempty⟩
    · simp [reset_not_mem_drainActions, pushOf_ne_reset, hr]
    · rw [encBeatsOf_append, encBeatsOf_append, hencDrain, encBeatsOf_map_pushOf, henc,
        List.nil_append, ← List.filter_append, List.singleton_append]
    · rw [decBeatsOf_append, decBeatsOf_append, hdecDrain,
        decBeatsOf_map_pushOf _ _ (by simpa using hi), ← hcfg, hdec,
        List.nil_append, ← List.filter_append, List.singleton_append]
    · exact runActions_drain s s' _ ((runActions_cons_next _ _ _ _).mpr ⟨_, hpush, hrun⟩)

theorem encMessage_bytes_end (x : List Byte) :
    encMessage (x.map .encByte ++ [.encEnd]) = some x := by
  induction x with
  | nil => rfl
  | cons b x ih => simp [encMessage, ih]

theorem decMessage_chars_end (cs : List Nat) :
    decMessage (cs.map .decChar ++ [.decEnd]) = some cs := by
  induction cs with
  | nil => rfl
  | cons c cs ih => simp [decMessage, ih]

/-! ### The host's readers (42_handshake.md R102, 60_exceptions.md R114) -/

/-- Over one message's beats the reader gathers the characters of the DATA beats, up to END. -/
theorem encResultsFrom_message (data : List EncOutWord) (acc : List Byte)
    (h : ∀ w ∈ data, encIsEnd w = false) :
    encResultsFrom acc (data ++ [encEndWord]) = [acc ++ (data.map encLanes).flatten] := by
  induction data generalizing acc with
  | nil => simp [encResultsFrom]
  | cons w data ih =>
    obtain ⟨hw, hdata⟩ := List.forall_mem_cons.mp h
    simp [encResultsFrom, hw, ih _ hdata]

/-- Over one message's beats the reader gathers the bytes of the DATA beats, up to END and its status. -/
theorem decResultsFrom_message (data : List DecOutWord) (st : DecStatus) (acc : List Byte)
    (h : ∀ w ∈ data, decKind w = 0b00#2) :
    decResultsFrom acc (data ++ [decEndWord st.code]) =
      [resultOf st (acc ++ (data.map decBytes).flatten)] := by
  induction data generalizing acc with
  | nil => simp [decResultsFrom, decEndWord]
  | cons w data ih =>
    obtain ⟨hw, hdata⟩ := List.forall_mem_cons.mp h
    simp [decResultsFrom, hw, ih _ hdata]

/-- A result is read back from its status, and from its bytes when the status is OK; with an error
status the bytes do not count (R114). -/
theorem resultOf_status (r : DecResult) (bytes : List Byte) (h : ∀ y, r = .ok y → bytes = y) :
    resultOf r.status bytes = r := by
  cases r with
  | ok y => exact congrArg DecResult.ok (h y rfl)
  | lengthError | characterError => rfl

end Sys2Proof.Machine

/-! ### The statements of 42_handshake.md -/

namespace Sys2Proof.Machine

/-- Settles O51: the readers over the beats of O48 and O49. -/
theorem hostReadsTheMessageResult : Obligations.HostReadsTheMessageResult := by
  constructor
  · intro s s' acts x hs hr hx h
    obtain ⟨-, data, hq, -, hdata, hlanes⟩ := encComputesEncode s s' acts x hs hr hx h
    rw [hq, List.append_assoc, List.drop_left, encResults, encResultsFrom_message data [] hdata,
      hlanes, List.nil_append]
  · intro s s' acts cs hs hr hcs h
    obtain ⟨-, data, hq, hdata, hbytes⟩ := decComputesDecode s s' acts cs hs hr hcs h
    rw [hq, List.append_assoc, List.drop_left, decResults, decResultsFrom_message data _ [] hdata,
      List.nil_append, resultOf_status _ _ hbytes]

/-- Settles O52: a message is a list of well-formed beats of one unit, and every such list can be
delivered. -/
theorem everyMessageCanBeDelivered : Obligations.EveryMessageCanBeDelivered := by
  constructor
  · intro s x hs _
    have hbeats : ∀ i ∈ x.map Instr.encByte ++ [.encEnd], i.wf s.cfg = true ∧ i.isEnc = true := by
      rw [List.forall_mem_append, List.forall_mem_map, List.forall_mem_singleton]
      exact ⟨fun _ _ => ⟨rfl, rfl⟩, rfl, rfl⟩
    obtain ⟨acts, s', hr, henc, -, hrun, hq, -⟩ :=
      exists_run_of_beats _ s hs fun i hi => (hbeats i hi).1
    rw [List.filter_eq_self.mpr fun i hi => (hbeats i hi).2] at henc
    exact ⟨acts, s', hr, henc ▸ encMessage_bytes_end x, hrun, hq⟩
  · intro s cs hs _ hcs
    have hbeats : ∀ i ∈ cs.map Instr.decChar ++ [.decEnd],
        i.wf s.cfg = true ∧ (!i.isEnc) = true := by
      rw [List.forall_mem_append, List.forall_mem_map, List.forall_mem_singleton]
      exact ⟨fun c hc => ⟨decide_eq_true (hcs c hc), rfl⟩, rfl, rfl⟩
    obtain ⟨acts, s', hr, -, hdec, hrun, -, hq⟩ :=
      exists_run_of_beats _ s hs fun i hi => (hbeats i hi).1
    rw [List.filter_eq_self.mpr fun i hi => (hbeats i hi).2] at hdec
    exact ⟨acts, s', hr, hdec ▸ decMessage_chars_end cs, hrun, hq⟩

/-- Settles O34: R93's room is enough for a beat's pushes, and only RESET drops a beat from a stream. -/
theorem noQueueOverflowsOrLosesABeat : Obligations.NoQueueOverflowsOrLosesABeat := by
  intro s s' h
  obtain ⟨-, rfl⟩ | ⟨a, rest, ha, hp⟩ := step_next_cases s s' h
  · exact ⟨id, fun _ => ⟨⟨[], (List.append_nil _).symm⟩, [], (List.append_nil _).symm⟩⟩
  · refine ⟨fun hs => perform_keeps_I10 a (s.withActions rest) s' hs hp, fun hr => ?_⟩
    exact perform_extends_streams a (s.withActions rest) s' (by simpa [ha] using hr) hp

/-- Settles O40: every action but the unit's own pop and RESET keeps a unit that is not ready. -/
theorem stuckUnitWaitsForItsHost : Obligations.StuckUnitWaitsForItsHost := by
  intro s s' h hr
  obtain ⟨-, rfl⟩ | ⟨a, rest, ha, hp⟩ := step_next_cases s s' h
  · exact ⟨fun _ _ => rfl, fun _ _ => rfl⟩
  · simp only [ha, List.head?_cons, ne_eq, Option.some.injEq] at hr ⊢
    exact ⟨fun hs hpop => perform_keeps_unready_enc a (s.withActions rest) s' hp hr hpop hs,
      fun hs hpop => perform_keeps_unready_dec a (s.withActions rest) s' hp hr hpop hs⟩

/-- Settles O41: the pops lead to the drained state, whose empty queue has room. -/
theorem drainingTheQueueMakesTheUnitReady : Obligations.DrainingTheQueueMakesTheUnitReady := by
  intro s hwf
  have hroom := hasRoom_of_empty s.cfg hwf
  have henc := runActions_drainEnc s _ [] (runActions_nil s.drainedEnc)
  have hdec := runActions_drainDec s _ [] (runActions_nil s.drainedDec)
  rw [List.append_nil] at henc hdec
  exact ⟨⟨_, henc, hroom, rfl, rfl, rfl⟩, ⟨_, hdec, hroom, rfl, rfl, rfl⟩⟩

/-- Settles O4: with nothing pending there is no action to take. -/
theorem idleHostChangesNothing : Obligations.IdleHostChangesNothing := by
  intro s h
  simp only [step, takeAction, h]

/-- Settles O5: an ENC word always decodes, and a DEC word to the given beat. -/
theorem stepRunsTheDecodedBeat : Obligations.StepRunsTheDecodedBeat := by
  refine ⟨fun s ew rest h => step_of_pending s _ rest h, fun s dw i rest h hd => ?_⟩
  rw [step_of_pending s _ rest h]
  simp only [perform, State.withActions_cfg, hd]

/-- Settles O31: acceptance asks for readiness first, whatever the beat. -/
theorem unreadyUnitAcceptsNoBeat : Obligations.UnreadyUnitAcceptsNoBeat := fun i s =>
  ⟨exec_enc_of_unready i s, exec_dec_of_unready i s⟩

/-- Settles O32: a pop is the step of its queue's head, and enabled while there is one. -/
theorem popReturnsAndRemovesTheHead : Obligations.PopReturnsAndRemovesTheHead := by
  constructor
  · intro s rest h
    rw [step_of_pending s _ rest h]
    refine ⟨popEnc_enabled_iff (s.withActions rest), fun w q hq => ⟨?_, ?_⟩⟩
    · simp [State.encOutData, hq]
    · exact (popEnc_next _ _).mpr ⟨w, q, hq, rfl⟩
  · intro s rest h
    rw [step_of_pending s _ rest h]
    refine ⟨popDec_enabled_iff (s.withActions rest), fun w q hq => ⟨?_, ?_⟩⟩
    · simp [State.decOutData, hq]
    · exact (popDec_next _ _).mpr ⟨w, q, hq, rfl⟩

/-- Settles O33: each stop is that of its own operation. -/
theorem disabledHostActionsAreRefused : Obligations.DisabledHostActionsAreRefused := by
  refine ⟨fun s rest h hq => ?_, fun s rest h hq => ?_, fun s dw rest h hdw => ?_⟩
  · rw [step_of_pending s _ rest h]
    exact popEnc_of_empty _ hq
  · rw [step_of_pending s _ rest h]
    exact popDec_of_empty _ hq
  · rw [step_of_pending s _ rest h]
    simp only [perform, State.withActions_cfg, decodeDec_of_too_wide s.cfg dw hdw]

end Sys2Proof.Machine

/-! ### The causes of a character error (60_exceptions.md R107) -/

namespace Sys2Proof.Machine

/-- A class that can stand at its position is placed without recording an error. -/
theorem decPlace_keeps_dErr (k : CharClass) (d : Dec) (h : ¬ d.Rejects k) :
    (decPlace k d).dErr = d.dErr := by
  rcases dPos_cases d.dPos with hp | hp | hp | hp
  · obtain ⟨v, rfl⟩ := val_of_accepts_at_start (.inl hp) h
    simp [decPlace, decAt0, hp]
  · obtain ⟨v, rfl⟩ := val_of_accepts_at_start (.inr hp) h
    simp [decPlace, decAt1, hp]
  · obtain ⟨v, rfl⟩ | rfl := val_or_pad_of_accepts h <;> simp [decPlace, decAt2, hp]
  · cases hp2 : d.dPad2 with
    | true =>
      obtain rfl := pad_of_accepts_after_pad hp hp2 h
      simp [decPlace, decAt3, hp, hp2]
    | false =>
      obtain ⟨v, rfl⟩ | rfl := val_or_pad_of_accepts h <;> simp [decPlace, decAt3, hp, hp2]

/-- R77 sets `d_err` exactly after a held group (cause C-d) or on a class that cannot stand at its
position (causes C-a to C-c). -/
theorem decCharRule_sets_err_iff (c : Nat) (d : Dec) (he : d.dErr = false) :
    (decCharRule c d).dErr = true ↔ d.dHoldValid = true ∨ d.Rejects (rev c) := by
  constructor
  · intro hset
    by_contra hno
    obtain ⟨hv, hr⟩ := not_or.mp hno
    rw [decCharRule_of_clean c d he (by simpa using hv), decAdvance_dErr,
      decPlace_keeps_dErr _ d hr, he] at hset
    cases hset
  · intro hcause
    by_contra hclear
    obtain ⟨-, hv, hr⟩ := decCharRule_accepts c d (by simpa using hclear)
    exact hcause.elim (by simp [hv]) hr

/-- Settles O28: an accepted DEC_CHAR is R77's register transfer, and `Dec.Rejects` is C-a to C-c. -/
theorem characterErrorHasExactlyItsCauses : Obligations.CharacterErrorHasExactlyItsCauses := by
  intro s s' c he h
  rw [exec_eq_acceptDec _ s rfl, acceptDec_next] at h
  obtain ⟨-, rfl⟩ := h
  exact decCharRule_sets_err_iff c s.dec he

end Sys2Proof.Machine

/-! ### What CHAR_UNIT changes (70_reset_and_hazards.md R133) -/

namespace Sys2Proof.Machine

/-- A message that decodes holds no INVALID character (R82). -/
theorem Decodes.rev_ne_invalid {s : List Nat} {y : List Byte} (h : Decodes s y) :
    ∀ c ∈ s, rev c ≠ .invalid := by
  induction h with
  | nil => simp
  | fullGroup ha hb hc hd _ ih => simpa [ha, hb, hc, hd] using ih
  | onePad ha hb hc hd => simp [ha, hb, hc, hd]
  | twoPads ha hb hc hd => simp [ha, hb, hc, hd]

/-- A code outside ASCII anywhere in a message is an error, by its class (R34) or by the length. -/
theorem decodeMsg_status_of_mem_ge_0x80 {s : List Nat} {n : Nat} (hn : n ∈ s) (hge : 0x80 ≤ n) :
    (decodeMsg s).status ≠ .ok := by
  rw [Ne, DecResult.status_eq_ok_iff]
  rintro ⟨y, hy⟩
  exact (decodes_of_decodeMsg hy).rev_ne_invalid n hn (rev_of_ge_0x80 n hge)

theorem charCodes_codePoint (c : Nat) : charCodes .codePoint c = [c] := rfl

theorem charCodes_utf16Unit_of_le (c : Nat) (h : c ≤ 0xFFFF) : charCodes .utf16Unit c = [c] :=
  if_pos h

theorem charCodes_utf16Unit_of_gt (c : Nat) (h : 0xFFFF < c) :
    charCodes .utf16Unit c =
      [0xD800 + natField (c - 0x10000) 10 10, 0xDC00 + natField (c - 0x10000) 0 10] :=
  if_neg (Nat.not_le.mpr h)

theorem mem_textCodes {u : CharUnit} {text : List Nat} {n : Nat} :
    n ∈ textCodes u text ↔ ∃ c ∈ text, n ∈ charCodes u c := by
  simp [textCodes]

/-- A character above U+FFFF gives a code outside ASCII: itself, or its first surrogate. -/
theorem exists_mem_charCodes_ge_0x80 (u : CharUnit) (c : Nat) (h : 0xFFFF < c) :
    ∃ n ∈ charCodes u c, 0x80 ≤ n := by
  cases u with
  | codePoint => exact ⟨c, by simp [charCodes_codePoint], by omega⟩
  | utf16Unit =>
    rw [charCodes_utf16Unit_of_gt c h]
    exact ⟨_, List.mem_cons_self, by omega⟩

/-- Settles O59: up to U+FFFF each character is its own code under both values, and above it gives a
code that no message decodes with. -/
theorem charUnitMattersOnlyAboveFFFF : Obligations.CharUnitMattersOnlyAboveFFFF := by
  refine fun text => ⟨fun hle => ?_, fun u c hc hgt => ?_⟩
  · have hchar : text.map (charCodes .utf16Unit) = text.map (charCodes .codePoint) :=
      List.map_congr_left fun c hc => charCodes_utf16Unit_of_le c (hle c hc)
    rw [textCodes, textCodes, hchar]
  · obtain ⟨n, hn, hge⟩ := exists_mem_charCodes_ge_0x80 u c hgt
    exact decodeMsg_status_of_mem_ge_0x80 (mem_textCodes.mpr ⟨c, hc, hn⟩) hge

/-- Settles O3: the pending RESET is performed, and R120's block reset writes both units whole. -/
theorem resetStepClearsBothUnits : Obligations.ResetStepClearsBothUnits := by
  intro s rest h
  rw [step_of_pending s .reset rest h]
  rfl

end Sys2Proof.Machine
